-- ==== Sys2Proof/Word.lean ====
section
/-! DEFINITION. The byte, the 4-byte word, the 16-byte block and the key schedule as plain data, with their
bytewise exclusive-or. Rules: spec/00_scope.md R7 (byte, word, Block), spec/10_state.md R12, spec/20_memory.md R31, R32,
spec/41_key_schedule.md R93. -/

namespace Sys2Proof

/-- A byte (R7): bit 7 is the most significant, bit 0 the least. -/
abbrev Byte := BitVec 8

/-- A word (R7, R32): an array of four bytes in buffer order, never an integer. -/
@[ext] structure Word where
  w0 : Byte
  w1 : Byte
  w2 : Byte
  w3 : Byte
deriving DecidableEq, Repr, Inhabited

/-- A Block (R7, R31): 16 bytes held as the four columns of the state; column `c` holds the bytes
`b[4c] .. b[4c+3]`, and for a round key it is the word `W[4r + c]` (R32). -/
@[ext] structure Block where
  c0 : Word
  c1 : Word
  c2 : Word
  c3 : Word
deriving DecidableEq, Repr, Inhabited

/-- A RoundKeySchedule (R12): eleven round keys of 16 bytes. -/
@[ext] structure Schedule where
  k0  : Block
  k1  : Block
  k2  : Block
  k3  : Block
  k4  : Block
  k5  : Block
  k6  : Block
  k7  : Block
  k8  : Block
  k9  : Block
  k10 : Block
deriving DecidableEq, Repr, Inhabited

/-- Word XOR (R93). -/
def Word.xor (a b : Word) : Word := ⟨a.w0 ^^^ b.w0, a.w1 ^^^ b.w1, a.w2 ^^^ b.w2, a.w3 ^^^ b.w3⟩

/-- `a ^ b` on two 16-byte sequences (R7). -/
def Block.xor (a b : Block) : Block := ⟨a.c0.xor b.c0, a.c1.xor b.c1, a.c2.xor b.c2, a.c3.xor b.c3⟩

/-- The word of four zero bytes. -/
def Word.zero : Word := ⟨0, 0, 0, 0⟩

/-- `0^16`, the block of 16 zero bytes. -/
def Block.zero : Block := ⟨Word.zero, Word.zero, Word.zero, Word.zero⟩

/-- The schedule of 176 zero bytes. -/
def Schedule.zero : Schedule :=
  ⟨Block.zero, Block.zero, Block.zero, Block.zero, Block.zero, Block.zero, Block.zero, Block.zero, Block.zero,
    Block.zero, Block.zero⟩

end Sys2Proof
end

