-- ==== Sys2Proof/Config.lean ====
section
/-! DEFINITION. What is fixed for one machine: the fixed parameters of spec/00_scope.md R5, the open parameters of R6 as
opaque constants, and the free values of spec/93_implementation_defined.md U2 and U3. -/

namespace Sys2Proof

/-! ## Fixed parameters (R5) -/

/-- `BLOCK`: bytes in a Block, an IV, a round key. -/
def Config.block : Nat := 16
/-- `KEYLEN`: bytes in a CipherKey. -/
def Config.keyLen : Nat := 16
/-- `NR`: number of rounds. -/
def Config.nr : Nat := 10
/-- `NRK`: round keys in the schedule. -/
def Config.nrk : Nat := Config.nr + 1
/-- `SCHED_BYTES`: bytes in the schedule. -/
def Config.schedBytes : Nat := Config.nrk * Config.block
/-- `NB`: columns of the state. -/
def Config.nb : Nat := Config.block / 4
/-- `NK`: 4-byte words in the key. -/
def Config.nk : Nat := Config.keyLen / 4
/-- `NW`: 4-byte words in the schedule. -/
def Config.nw : Nat := Config.nb * Config.nrk

/-! ## Open parameters (R6) -/

/-- `DEFAULT_IV` (R6, U1): 16 bytes the spec does not give; nothing in Lean knows its value (log entry 3). -/
opaque Config.defaultIV : Block

/-- How many blocks fewer than the most the `LEN` field can express the machine accepts in one buffer; see
`Config.maxLen` (log entry 6). -/
opaque Config.maxLenWithheld : Fin 0xFFFFFFD

/-- `MAX_LEN` (R6, U11, D23): an unknown multiple of 16. DEDUCED bounds (log entry 6): at most 0xFFFFFFF0, the largest
multiple of 16 that the `LEN` field holds (R6), and at least 48, since R143 says that `LEN` 16, 32 and 48 succeed. -/
def Config.maxLen : Nat := 16 * (0xFFFFFFC - Config.maxLenWithheld.val) + 48

/-! ## Free values (U2, U3; log entry 2)

Each is applied to the counter `draws` of State; nothing constrains it. -/

/-- `RK` after a reset event: any 176 bytes (R23, R185, U2). -/
opaque Config.freeRk : Nat → Schedule

/-- `ST` between commands and after a reset event: any 16 bytes (R14, R23, U3). -/
opaque Config.freeSt : Nat → Block

/-- `RND` between commands and after a reset event: any index 0..10 (R22, R23, U3). -/
opaque Config.freeRnd : Nat → Fin 11

/-- `BLK` between commands and after a reset event: any index (R22, R23, U3). -/
opaque Config.freeBlk : Nat → Nat

end Sys2Proof
end

