-- ==== Sys2Proof/Machine/Operands.lean ====
section
/-! DEFINITION. Operand forms: the payload as bytes, blocks and words, the block-to-state mapping, the length rules.
Rules: spec/10_state.md R12, spec/20_memory.md R30 to R36, spec/44_chaining.md R136, R143. -/

namespace Sys2Proof

/-! ## Bytes of words and blocks -/

/-- Byte `r` of a word in buffer order; in a column, the byte at row `r` (R32). -/
def Word.byteAt (w : Word) (r : Fin 4) : Byte :=
  match r.val with
  | 0 => w.w0
  | 1 => w.w1
  | 2 => w.w2
  | _ => w.w3

/-- Column `c` of a block. -/
def Block.column (b : Block) (c : Fin 4) : Word :=
  match c.val with
  | 0 => b.c0
  | 1 => b.c1
  | 2 => b.c2
  | _ => b.c3

/-- `s(r,c)` (R31): the byte at row `r`, column `c`. -/
def Block.cell (b : Block) (r c : Fin 4) : Byte := (b.column c).byteAt r

/-- The row of index `n`: `n mod 4` (R31). -/
def rowOf (n : Fin 16) : Fin 4 := ⟨n.val % 4, Nat.mod_lt _ (by decide)⟩

/-- The column of index `n`: `n div 4` (R31). -/
def colOf (n : Fin 16) : Fin 4 := ⟨n.val / 4, Nat.div_lt_of_lt_mul n.isLt⟩

/-- `b[n]` (R31): byte `n` stands at row `n mod 4`, column `n div 4`. -/
def Block.get (b : Block) (n : Fin 16) : Byte := b.cell (rowOf n) (colOf n)

/-- The block with byte `n` equal to `f n`, for `n` in 0..15. -/
def Block.ofFn (f : Fin 16 → Byte) : Block :=
  ⟨⟨f 0, f 1, f 2, f 3⟩, ⟨f 4, f 5, f 6, f 7⟩, ⟨f 8, f 9, f 10, f 11⟩, ⟨f 12, f 13, f 14, f 15⟩⟩

/-- A function applied to every byte, each at its own place. -/
def Block.mapBytes (f : Byte → Byte) (b : Block) : Block := Block.ofFn fun n => f (b.get n)

/-- A function applied to every column. -/
def Block.mapColumns (f : Word → Word) (b : Block) : Block := ⟨f b.c0, f b.c1, f b.c2, f b.c3⟩

/-- The four bytes of a word in buffer order. -/
def Word.bytes (w : Word) : List Byte := [w.w0, w.w1, w.w2, w.w3]

/-- The 16 bytes of a block in buffer order (R31): column by column. -/
def Block.bytes (b : Block) : List Byte := b.c0.bytes ++ b.c1.bytes ++ b.c2.bytes ++ b.c3.bytes

/-- The block of the first 16 bytes of a sequence (R31). It is applied to sequences of at least 16 bytes only; the byte
read past a shorter one's end is the model's totalisation and reaches no result. -/
def Block.ofBytes (l : List Byte) : Block := Block.ofFn fun n => l.getD n.val 0

/-! ## Round keys -/

/-- `RK[r]` (R12). -/
def Schedule.get (rk : Schedule) (r : Fin 11) : Block :=
  match r.val with
  | 0 => rk.k0
  | 1 => rk.k1
  | 2 => rk.k2
  | 3 => rk.k3
  | 4 => rk.k4
  | 5 => rk.k5
  | 6 => rk.k6
  | 7 => rk.k7
  | 8 => rk.k8
  | 9 => rk.k9
  | _ => rk.k10

/-- `W[i]` (R12): column `i mod 4` of `RK[i div 4]`. -/
def Schedule.word (rk : Schedule) (i : Fin 44) : Word :=
  (rk.get ⟨i.val / 4, Nat.div_lt_of_lt_mul i.isLt⟩).column ⟨i.val % 4, Nat.mod_lt _ (by decide)⟩

/-- The 176 bytes of the schedule in order (R12, R30). -/
def Schedule.bytes (rk : Schedule) : List Byte :=
  [rk.k0, rk.k1, rk.k2, rk.k3, rk.k4, rk.k5, rk.k6, rk.k7, rk.k8, rk.k9, rk.k10].flatMap Block.bytes

/-! ## Buffers -/

/-- `MemRead(addr, n)` (R7, R36): `n` bytes of the payload at byte offset `addr`. -/
def memRead (payload : List Byte) (addr n : Nat) : List Byte := (payload.drop addr).take n

/-- `MemWrite(addr, n, v)` (R7, R36): `n` bytes `v` written at offset `addr` of the response data, which grows as blocks
are appended. -/
def memWrite (rdata : List Byte) (addr n : Nat) (v : List Byte) : List Byte :=
  rdata.take addr ++ v.take n ++ rdata.drop (addr + n)

/-- `P_i = MemRead(16i, 16)` (R36) as a block. -/
def blockAt (payload : List Byte) (i : Nat) : Block := Block.ofBytes (memRead payload (16 * i) 16)

/-- `blocks(buf)` (R136): `B_i = buf[16i .. 16i+15]` for `i` in `0 .. n-1`, `n = LEN div 16`. -/
def blocks (buf : List Byte) : List Block := (List.range (buf.length / 16)).map (blockAt buf)

/-- The output buffer (R136): the concatenation `O_0 ‖ O_1 ‖ ... ‖ O_(n-1)`. -/
def joinBlocks (bs : List Block) : List Byte := bs.flatMap Block.bytes

/-- The length rule of the multi-block commands (R35, R143): a nonzero multiple of 16, at most `MAX_LEN`. -/
def bufferLenOk (len : Nat) : Bool := len != 0 && len % 16 == 0 && decide (len ≤ Config.maxLen)

end Sys2Proof
end

