-- ==== Sys2Proof/Syntax.lean ====
section
/-! DEFINITION. The instructions: the eleven commands of spec/30_encoding.md R50, R55 and spec/opcode_table.json. -/

namespace Sys2Proof

/-- A command (R50): its opcode is the constructor, its one operand the `PAYLOAD` in buffer order (R51). `LEN` is the
payload's length, so a known opcode with a wrong `LEN` is still that command (R56). -/
inductive Instr where
  /-- `KEYEXP` (0x01): load a key and derive the schedule (R99). -/
  | keyexp (payload : List Byte)
  /-- `ENCB` (0x02): encrypt one block (R113). -/
  | encb (payload : List Byte)
  /-- `DECB` (0x03): decrypt one block (R128). -/
  | decb (payload : List Byte)
  /-- `ENCE` (0x04): encrypt a buffer block by block (R144). -/
  | ence (payload : List Byte)
  /-- `DECE` (0x05): decrypt a buffer block by block (R145). -/
  | dece (payload : List Byte)
  /-- `ENCC` (0x06): CBC-encrypt a buffer, continuing from `CV` (R141). -/
  | encc (payload : List Byte)
  /-- `DECC` (0x07): CBC-decrypt a buffer, continuing from `CV` (R142). -/
  | decc (payload : List Byte)
  /-- `LDIV` (0x08): load the IV (R156). -/
  | ldiv (payload : List Byte)
  /-- `LDIVD` (0x09): load the default IV (R158); the payload should be empty (R58). -/
  | ldivd (payload : List Byte)
  /-- `RDIV` (0x0A): read the chaining value (R160); the payload should be empty (R58). -/
  | rdiv (payload : List Byte)
  /-- `RDST` (0x0B): read STATUS (R161); the payload should be empty (R58). -/
  | rdst (payload : List Byte)
deriving DecidableEq, Repr

/-- The operand of a command (R51). -/
def Instr.payload : Instr → List Byte
  | .keyexp p => p
  | .encb p => p
  | .decb p => p
  | .ence p => p
  | .dece p => p
  | .encc p => p
  | .decc p => p
  | .ldiv p => p
  | .ldivd p => p
  | .rdiv p => p
  | .rdst p => p

/-- `LEN` (R51): the number of payload bytes. -/
def Instr.len (i : Instr) : Nat := i.payload.length

end Sys2Proof
end

