-- ==== Sys2Proof/WellFormed.lean ====
section
/-! DEFINITION. Which commands have a frame: spec/30_encoding.md R51. -/

namespace Sys2Proof

/-- A command is well formed when its `LEN` fits the 32-bit field of the frame (R51, R33). The required length of an
operand is NOT part of well-formedness: it "is checked by the command's own rule, not by the frame decoder" (R52). -/
def Instr.wf (i : Instr) : Bool := decide (i.len < 2 ^ 32)

end Sys2Proof
end

