-- ==== Sys2Proof/Decode.lean ====
section
/-! DEFINITION. Frames: opcodes, big-endian lengths, the decoder (total, rejecting by name), the encoder, the response
frame. Rules: spec/20_memory.md R33, spec/30_encoding.md R51 to R57. -/

namespace Sys2Proof

/-- The eleven opcodes of R55. -/
inductive Opcode where
  | keyexp | encb | decb | ence | dece | encc | decc | ldiv | ldivd | rdiv | rdst
deriving DecidableEq, Repr

/-- The opcode byte of R55 (spec/opcode_table.json, `match`). -/
def Opcode.byte : Opcode → Byte
  | .keyexp => 0x01
  | .encb   => 0x02
  | .decb   => 0x03
  | .ence   => 0x04
  | .dece   => 0x05
  | .encc   => 0x06
  | .decc   => 0x07
  | .ldiv   => 0x08
  | .ldivd  => 0x09
  | .rdiv   => 0x0A
  | .rdst   => 0x0B

/-- The opcode map of R55, all eight bits compared; `none` is *reserved* (R56, R57). -/
def Opcode.ofByte (b : Byte) : Option Opcode :=
  match b.toNat with
  | 0x01 => some .keyexp
  | 0x02 => some .encb
  | 0x03 => some .decb
  | 0x04 => some .ence
  | 0x05 => some .dece
  | 0x06 => some .encc
  | 0x07 => some .decc
  | 0x08 => some .ldiv
  | 0x09 => some .ldivd
  | 0x0A => some .rdiv
  | 0x0B => some .rdst
  | _    => none

/-- The opcode of a command. -/
def Instr.opcode : Instr → Opcode
  | .keyexp _ => .keyexp
  | .encb _ => .encb
  | .decb _ => .decb
  | .ence _ => .ence
  | .dece _ => .dece
  | .encc _ => .encc
  | .decc _ => .decc
  | .ldiv _ => .ldiv
  | .ldivd _ => .ldivd
  | .rdiv _ => .rdiv
  | .rdst _ => .rdst

/-- The command with an opcode and a payload. -/
def Opcode.instr (op : Opcode) (payload : List Byte) : Instr :=
  match op with
  | .keyexp => .keyexp payload
  | .encb => .encb payload
  | .decb => .decb payload
  | .ence => .ence payload
  | .dece => .dece payload
  | .encc => .encc payload
  | .decc => .decc payload
  | .ldiv => .ldiv payload
  | .ldivd => .ldivd payload
  | .rdiv => .rdiv payload
  | .rdst => .rdst payload

/-- `be32(n)` (R7, R33): the 4-byte big-endian encoding. -/
def be32 (n : Nat) : List Byte :=
  [BitVec.ofNat 8 (n / 2 ^ 24), BitVec.ofNat 8 (n / 2 ^ 16), BitVec.ofNat 8 (n / 2 ^ 8), BitVec.ofNat 8 n]

/-- `LEN = 2^24 * byte1 + 2^16 * byte2 + 2^8 * byte3 + byte4` (R51). -/
def be32Value (b1 b2 b3 b4 : Byte) : Nat :=
  2 ^ 24 * b1.toNat + 2 ^ 16 * b2.toNat + 2 ^ 8 * b3.toNat + b4.toNat

/-- What a byte sequence decodes to. -/
inductive Decoded where
  /-- one of the eleven commands (R56) -/
  | command (i : Instr)
  /-- a whole frame with a reserved opcode (R57) -/
  | reserved (opc : Byte)
  /-- no whole frame: fewer than 5 bytes, or not `5 + LEN` bytes (R51, R191) -/
  | malformed
deriving DecidableEq, Repr

/-- The decoder (R56): total on every byte sequence. It looks at `OPC` only; a wrong `LEN` is the command's own matter.
A sequence that is not exactly `5 + LEN` bytes long is no frame (R51, R191). -/
def decode (frame : List Byte) : Decoded :=
  match frame with
  | opc :: l1 :: l2 :: l3 :: l4 :: payload =>
    if payload.length = be32Value l1 l2 l3 l4 then
      match Opcode.ofByte opc with
      | some op => .command (op.instr payload)
      | none => .reserved opc
    else .malformed
  | _ => .malformed

/-- The encoder (R51): `OPC ‖ be32(LEN) ‖ PAYLOAD`. -/
def encode (i : Instr) : List Byte := i.opcode.byte :: (be32 i.len ++ i.payload)

/-- Cut the first frame off a byte stream by its bytes 1 to 4 alone, "without knowing the opcodes" (R51): the frame and
what follows it; `none` when the stream does not hold a whole frame. -/
def splitFrame (stream : List Byte) : Option (List Byte × List Byte) :=
  match stream with
  | _ :: l1 :: l2 :: l3 :: l4 :: rest =>
    let n := be32Value l1 l2 l3 l4
    if n ≤ rest.length then some (stream.take (5 + n), stream.drop (5 + n)) else none
  | _ => none

/-- The response frame (R53): `STS ‖ be32(RLEN) ‖ RDATA`. -/
def encodeResponse (sts : Byte) (rdata : List Byte) : List Byte := sts :: (be32 rdata.length ++ rdata)

/-- Reading a response frame back (R53): `STS` and `RDATA`; `none` when it is not `5 + RLEN` bytes long. -/
def decodeResponse (frame : List Byte) : Option (Byte × List Byte) :=
  match frame with
  | sts :: l1 :: l2 :: l3 :: l4 :: rdata =>
    if rdata.length = be32Value l1 l2 l3 l4 then some (sts, rdata) else none
  | _ => none

/-- Byte `k` of an instruction whose bits are `w`, numbered as spec/opcode_table.json numbers them: bit 0 is the least
significant bit of frame byte 0, and the next byte's bits count on from it; every bit above `nbits` is 0. -/
def tableByte (nbits w k : Nat) : Byte := BitVec.ofNat 8 (w % 2 ^ nbits / 2 ^ (8 * k))

/-- The whole frame of that instruction: `5 + LEN` bytes, with `LEN` its own bytes 1 to 4 and a payload byte above
`nbits` zero. -/
def tableFrame (nbits w : Nat) : List Byte :=
  let len := be32Value (tableByte nbits w 1) (tableByte nbits w 2) (tableByte nbits w 3) (tableByte nbits w 4)
  (List.range (5 + len)).map (tableByte nbits w)

/-- The command the decoder reads from an instruction whose bits are `w`; `none` where it gives no command. -/
def decodeTableWord (nbits w : Nat) : Option Instr :=
  match decode (tableFrame nbits w) with
  | .command i => some i
  | .reserved _ => none
  | .malformed => none

end Sys2Proof
end

