-- ==== Sys2Proof/Machine/State.lean ====
section
/-! DEFINITION. The state of one core instance (spec/10_state.md R10 to R24), the outside world's events and the received
responses as plain data, the reasons a step can stop, and the state after reset. -/

namespace Sys2Proof.Machine

/-- `CST` (R16): the ChainedCipher has exactly two states per session. -/
inductive Session where
  /-- "awaiting first block" (`CST = 0`): `CV` holds a loaded IV or `DEFAULT_IV` -/
  | awaitingFirst
  /-- "chained" (`CST = 1`): `CV` holds the last ciphertext block -/
  | chained
deriving DecidableEq, Repr

/-- What the outside world does next (spec/70_reset_and_hazards.md R185, R186, R191, R192). A frame is handed over whole
and unchanging; the next event is taken only after the response to the previous one. -/
inductive HostEvent where
  /-- the host sends these bytes as one frame -/
  | frame (bytes : List Byte)
  /-- reset between two commands (R185) -/
  | reset
  /-- the host sends these bytes as one frame and reset comes during the command (R186) -/
  | frameCutByReset (bytes : List Byte)
deriving DecidableEq, Repr

/-- The state: the spec's tuple `(KV, RK, CV, CST, ERR, ST, RND, BLK)` (R10) and three fields of the model's own
(`hostEvents`, `responses`, `draws`; log entries 2, 4, 5). -/
structure State where
  /-- `KV` (R11): a schedule has been derived -/
  kv : Bool
  /-- `RK[0..10]` (R12, R13) -/
  rk : Schedule
  /-- `CV` (R15): the chaining value -/
  cv : Block
  /-- `CST` (R16) -/
  cst : Session
  /-- `ERR` (R17): the status code of the last command other than a successful RDST -/
  err : Byte
  /-- `ST` (R14): the block in transformation; between commands a free value -/
  st : Block
  /-- `RND` (R22): the round-key index; between commands a free value -/
  rnd : Fin 11
  /-- `BLK` (R22): the block index; between commands a free value -/
  blk : Nat
  /-- the model's own: what the outside world does next, oldest first -/
  hostEvents : List HostEvent
  /-- the model's own: the response frames the host has received, oldest first (R50, R53) -/
  responses : List (List Byte)
  /-- the model's own: how many free values have been drawn -/
  draws : Nat
deriving DecidableEq, Repr

/-- The reasons the machine stops with a fault: none. Every error of spec/60_exceptions.md is answered and the core goes
on ("no sequence of frames stops the core from accepting further frames", R172; "No other exception exists", R173). -/
inductive Fault where
deriving DecidableEq, Repr

/-- The reasons the model gives a run no meaning. -/
inductive Refusal where
  /-- raised by an arm of `exec` whose instruction has no meaning yet; no arm raises it. Safe. -/
  | notModelled (mnemonic : String)
  /-- raised by `runFrame` when the host's bytes are not exactly `5 + LEN` bytes: "What the core does with a truncated
  frame ... is not specified; a model gives such a run no meaning" (R191, U7). Safe. -/
  | malformedFrame
deriving DecidableEq, Repr

/-- The machine right after reset (R23, R185): `KV = 0`, `CV = DEFAULT_IV`, `CST = 0`, `ERR = 0x00`. `RK`, `ST`, `RND` and
`BLK` are unspecified there; zero is the model's DESIGN CHOICE (log entry 1). -/
def State.reset : State where
  kv := false
  rk := Schedule.zero
  cv := Config.defaultIV
  cst := .awaitingFirst
  err := 0x00
  st := Block.zero
  rnd := 0
  blk := 0
  hostEvents := []
  responses := []
  draws := 0

end Sys2Proof.Machine
end

