-- ==== Sys2Proof/Machine/Flags.lean ====
section
/-! DEFINITION. Status codes, the STATUS bytes, and which status a command ends with. There are no arithmetic flags
(spec/40_gf_and_tables.md R81); the flags are `KV`, `CST` and `ERR`. Rules: spec/10_state.md R11, R16 to R18,
spec/60_exceptions.md R165 to R169. -/

namespace Sys2Proof.Machine

/-- The statuses of R166. -/
inductive Status where
  | ok | invalidKeySize | invalidBlockSize | invalidLength | noKey | badCommand
deriving DecidableEq, Repr

/-- The status codes of R166: what `STS` and `ERR` hold. -/
def Status.code : Status → Byte
  | .ok => 0x00
  | .invalidKeySize => 0x01
  | .invalidBlockSize => 0x02
  | .invalidLength => 0x03
  | .noKey => 0x04
  | .badCommand => 0x05

/-- The bit encoding of `CST` (R16, D28). -/
def Session.bit : Session → Byte
  | .awaitingFirst => 0
  | .chained => 1

/-- `KV` as a bit (R11). -/
def kvBit (kv : Bool) : Byte := if kv then 1 else 0

/-- STATUS byte 0 (R18, R161): `(CST << 1) | KV`; bits 7:2 are 0. -/
def statusByte0 (kv : Bool) (cst : Session) : Byte := (cst.bit <<< 1) ||| kvBit kv

/-- STATUS (R18): byte 0, then `ERR`. -/
def State.statusBytes (s : State) : List Byte := [statusByte0 s.kv s.cst, s.err]

end Sys2Proof.Machine

namespace Sys2Proof

/-- Whether a command needs a key (R168): the six transform commands do, the others never raise `NoKey` (R155, R99). -/
def Opcode.needsKey : Opcode → Bool
  | .keyexp => false
  | .encb => true
  | .decb => true
  | .ence => true
  | .dece => true
  | .encc => true
  | .decc => true
  | .ldiv => false
  | .ldivd => false
  | .rdiv => false
  | .rdst => false

/-- The command's own length check (R52, R35): whether `LEN` is legal. -/
def Opcode.lenOk (op : Opcode) (len : Nat) : Bool :=
  match op with
  | .keyexp => len == 16
  | .encb => len == 16
  | .decb => len == 16
  | .ence => bufferLenOk len
  | .dece => bufferLenOk len
  | .encc => bufferLenOk len
  | .decc => bufferLenOk len
  | .ldiv => len == 16
  | .ldivd => len == 0
  | .rdiv => len == 0
  | .rdst => len == 0

/-- The error of a wrong `LEN` (R52, R166). -/
def Opcode.lenError : Opcode → Machine.Status
  | .keyexp => .invalidKeySize
  | .encb => .invalidBlockSize
  | .decb => .invalidBlockSize
  | .ence => .invalidLength
  | .dece => .invalidLength
  | .encc => .invalidLength
  | .decc => .invalidLength
  | .ldiv => .invalidBlockSize
  | .ldivd => .badCommand
  | .rdiv => .badCommand
  | .rdst => .badCommand

end Sys2Proof

namespace Sys2Proof.Machine

/-- The status a command ends with, by the order of checks of R169 (2 and 3): `NoKey`, then the length check. A function
of the opcode, `LEN` and `KV` alone (R165). -/
def commandStatus (op : Opcode) (len : Nat) (kv : Bool) : Status :=
  if op.needsKey && !kv then .noKey
  else if op.lenOk len then .ok
  else op.lenError

end Sys2Proof.Machine
end

