-- ==== Sys2Proof/Machine/Ops.lean ====
section
/-! DEFINITION. The shared operations on the state: answering a command, raising an error (the spec's exception entry),
releasing the transient registers, reset, taking the next host event. Rules: spec/30_encoding.md R53,
spec/60_exceptions.md R170, R172, spec/70_reset_and_hazards.md R185. -/

namespace Sys2Proof.Machine

/-- Answer the command in hand with one response frame (R50, R53). -/
def State.respond (s : State) (sts : Status) (rdata : List Byte) : State :=
  { s with responses := s.responses ++ [encodeResponse sts.code rdata] }

/-- `raise E` (R170), the one exception entry: `ERR <- code(E)`, respond `STS = code(E)`, `RLEN = 0`; nothing else
changes. No state is saved and no control is transferred, so there is no return from it (R172): the next command runs
at once. -/
def State.raise (s : State) (e : Status) : State := ({ s with err := e.code } : State).respond e []

/-- The end of a successful command other than RDST: `ERR <- 0x00`, respond `STS = 0x00` with the data (R17, R53). -/
def State.finish (s : State) (rdata : List Byte) : State :=
  ({ s with err := Status.ok.code } : State).respond .ok rdata

/-- After a single-block transform `ST` and `RND` hold any value (R14, R22, U3): free values (log entry 2). -/
def State.releaseRound (s : State) : State :=
  { s with st := Config.freeSt s.draws, rnd := Config.freeRnd s.draws, draws := s.draws + 1 }

/-- After a multi-block transform `BLK` too holds any value (R21, R22, U3). -/
def State.releaseBuffer (s : State) : State :=
  { s.releaseRound with blk := Config.freeBlk s.draws }

/-- Reset (R185): `KV <- 0`, `CV <- DEFAULT_IV`, `CST <- 0`, `ERR <- 0x00`; `RK`, `ST`, `RND`, `BLK` become unspecified
(free values). No response is produced (R186). -/
def State.applyReset (s : State) : State :=
  { s with
    kv := false
    rk := Config.freeRk s.draws
    cv := Config.defaultIV
    cst := .awaitingFirst
    err := 0x00
    st := Config.freeSt s.draws
    rnd := Config.freeRnd s.draws
    blk := Config.freeBlk s.draws
    draws := s.draws + 1 }

end Sys2Proof.Machine
end

