-- ==== Sys2Proof/Machine/KeySchedule.lean ====
section
/-! DEFINITION. The key schedule expander and KEYEXP: spec/41_key_schedule.md R90 to R100. -/

namespace Sys2Proof

/-- `RotWord` (R91): a word rotated left by one byte. -/
def rotWord (w : Word) : Word := ⟨w.w1, w.w2, w.w3, w.w0⟩

/-- `SubWord` (R92): `SBOX` applied to each byte. -/
def subWord (w : Word) : Word := ⟨sbox w.w0, sbox w.w1, sbox w.w2, sbox w.w3⟩

/-- `w ^ Rcon(j)` (R94): only byte 0 of the word changes. -/
def xorRcon (w : Word) (j : Nat) : Word := ⟨w.w0 ^^^ rcon j, w.w1, w.w2, w.w3⟩

/-- The special step of R95: rotate, then substitute, then XOR the round constant. -/
def specialStep (t : Word) (j : Nat) : Word := xorRcon (subWord (rotWord t)) j

/-- `W[i]` from the words before it (R95), for `i` in 4..43: `t <- W[i-1]`, the special step when `i mod 4 = 0`, then
`W[i-4] ^ t`. -/
def nextWord (ws : List Word) (i : Nat) : Word :=
  let t := ws.getD (i - 1) Word.zero
  let t := if i % 4 = 0 then specialStep t (i / 4) else t
  (ws.getD (i - 4) Word.zero).xor t

/-- One turn of R95's second loop: `W[i]` is appended. -/
def keyStep (ws : List Word) (i : Nat) : List Word := ws ++ [nextWord ws i]

/-- The 44 words `W[0..43]` (R95): the four words of the key, then forty steps `i = 4 .. 43`. -/
def keyWords (k : Block) : List Word := (List.range' 4 40).foldl keyStep [k.c0, k.c1, k.c2, k.c3]

/-- `RK[r] <- W[4r] ‖ W[4r+1] ‖ W[4r+2] ‖ W[4r+3]` (R95, R12). -/
def roundKeyOfWords (ws : List Word) (r : Nat) : Block :=
  ⟨ws.getD (4 * r) Word.zero, ws.getD (4 * r + 1) Word.zero, ws.getD (4 * r + 2) Word.zero,
    ws.getD (4 * r + 3) Word.zero⟩

/-- The eleven round keys read out of the word view (R95). -/
def scheduleOfWords (ws : List Word) : Schedule :=
  ⟨roundKeyOfWords ws 0, roundKeyOfWords ws 1, roundKeyOfWords ws 2, roundKeyOfWords ws 3, roundKeyOfWords ws 4,
    roundKeyOfWords ws 5, roundKeyOfWords ws 6, roundKeyOfWords ws 7, roundKeyOfWords ws 8, roundKeyOfWords ws 9,
    roundKeyOfWords ws 10⟩

/-- `keyExpand` (R95). -/
def keyExpand (k : Block) : Schedule := scheduleOfWords (keyWords k)

/-- `nextRoundKey(P, r)` (R98): the equivalent form that makes one round key from the one before it. -/
def nextRoundKey (p : Block) (r : Nat) : Block :=
  let t := specialStep p.c3 r
  let n0 := p.c0.xor t
  let n1 := p.c1.xor n0
  let n2 := p.c2.xor n1
  let n3 := p.c3.xor n2
  ⟨n0, n1, n2, n3⟩

end Sys2Proof

namespace Sys2Proof.Machine

/-- KEYEXP (R99, R100): `RK <- keyExpand(PAYLOAD)`, all eleven round keys at once, `KV <- 1`; it reads no state, needs no
earlier key and leaves `CV` and `CST` alone. -/
def execKeyexp (payload : List Byte) (s : State) : Host.Outcome State Fault Refusal :=
  if payload.length ≠ 16 then .next (s.raise .invalidKeySize)
  else .next (State.finish { s with rk := keyExpand (Block.ofBytes payload), kv := true } [])

end Sys2Proof.Machine
end

