-- ==== Sys2Proof/Machine/Encrypt.lean ====
section
/-! DEFINITION. The encrypt engine and ENCB: spec/42_encrypt.md R105 to R114. -/

namespace Sys2Proof

/-- `SubBytes` (R106). -/
def subBytes (s : Block) : Block := s.mapBytes sbox

/-- `ShiftRows` (R107): `out[r + 4c] <- s[r + 4*((c + r) mod 4)]`; the sum of columns is taken mod 4. -/
def shiftRows (s : Block) : Block := Block.ofFn fun n => s.cell (rowOf n) (colOf n + rowOf n)

/-- One column of `MixColumns` (R108): the circulant matrix 02 03 01 01. -/
def mixColumn (a : Word) : Word :=
  ⟨m2 a.w0 ^^^ m3 a.w1 ^^^ a.w2 ^^^ a.w3,
   a.w0 ^^^ m2 a.w1 ^^^ m3 a.w2 ^^^ a.w3,
   a.w0 ^^^ a.w1 ^^^ m2 a.w2 ^^^ m3 a.w3,
   m3 a.w0 ^^^ a.w1 ^^^ a.w2 ^^^ m2 a.w3⟩

/-- `MixColumns` (R108): every column on its own. -/
def mixColumns (s : Block) : Block := s.mapColumns mixColumn

/-- `AddRoundKey(s, k)` (R109). -/
def addRoundKey (s k : Block) : Block := s.xor k

/-- `encRound` (R110). -/
def encRound (s k : Block) : Block := addRoundKey (mixColumns (shiftRows (subBytes s))) k

/-- `encFinalRound` (R110): without `MixColumns`. -/
def encFinalRound (s k : Block) : Block := addRoundKey (shiftRows (subBytes s)) k

/-- The round-key indexes 1..9 of the full rounds, in encryption order (R111). -/
def encRounds : List (Fin 11) := [1, 2, 3, 4, 5, 6, 7, 8, 9]

/-- `encryptBlock(RK, P)` (R111): `RK[0]`, nine full rounds with `RK[1..9]`, the final round with `RK[10]`. -/
def encryptBlock (rk : Schedule) (p : Block) : Block :=
  let st := addRoundKey p (rk.get 0)
  let st := encRounds.foldl (fun st r => encRound st (rk.get r)) st
  encFinalRound st (rk.get 10)

end Sys2Proof

namespace Sys2Proof.Machine

/-- ENCB (R113, R114): `NoKey` first, then the length check; then respond `encryptBlock(RK, PAYLOAD)`. `CV` and `CST` are
neither read nor written. -/
def execEncb (payload : List Byte) (s : State) : Host.Outcome State Fault Refusal :=
  if s.kv = false then .next (s.raise .noKey)
  else if payload.length ≠ 16 then .next (s.raise .invalidBlockSize)
  else .next (s.releaseRound.finish (encryptBlock s.rk (Block.ofBytes payload)).bytes)

end Sys2Proof.Machine
end

