-- ==== Sys2Proof/Machine/Decrypt.lean ====
section
/-! DEFINITION. The decrypt engine and DECB: spec/43_decrypt.md R120 to R128. -/

namespace Sys2Proof

/-- `InvSubBytes` (R121). -/
def invSubBytes (s : Block) : Block := s.mapBytes invSbox

/-- `InvShiftRows` (R122): `out[r + 4c] <- s[r + 4*((c - r) mod 4)]`; the difference of columns is taken mod 4. -/
def invShiftRows (s : Block) : Block := Block.ofFn fun n => s.cell (rowOf n) (colOf n - rowOf n)

/-- One column of `InvMixColumns` (R123): the circulant matrix 0E 0B 0D 09. -/
def invMixColumn (a : Word) : Word :=
  ⟨m14 a.w0 ^^^ m11 a.w1 ^^^ m13 a.w2 ^^^ m9 a.w3,
   m9 a.w0 ^^^ m14 a.w1 ^^^ m11 a.w2 ^^^ m13 a.w3,
   m13 a.w0 ^^^ m9 a.w1 ^^^ m14 a.w2 ^^^ m11 a.w3,
   m11 a.w0 ^^^ m13 a.w1 ^^^ m9 a.w2 ^^^ m14 a.w3⟩

/-- `InvMixColumns` (R123). -/
def invMixColumns (s : Block) : Block := s.mapColumns invMixColumn

/-- `decRound` (R124). -/
def decRound (s k : Block) : Block := invMixColumns (addRoundKey (invSubBytes (invShiftRows s)) k)

/-- `decFinalRound` (R124): without `InvMixColumns`. -/
def decFinalRound (s k : Block) : Block := addRoundKey (invSubBytes (invShiftRows s)) k

/-- The round-key indexes 9 downto 1 of the full inverse rounds, in decryption order (R126). -/
def decRounds : List (Fin 11) := [9, 8, 7, 6, 5, 4, 3, 2, 1]

/-- `decryptBlock(RK, C)` (R126, R125): `RK[10]`, nine full inverse rounds with `RK[9]` down to `RK[1]`, the final round
with `RK[0]`. -/
def decryptBlock (rk : Schedule) (c : Block) : Block :=
  let st := addRoundKey c (rk.get 10)
  let st := decRounds.foldl (fun st r => decRound st (rk.get r)) st
  decFinalRound st (rk.get 0)

end Sys2Proof

namespace Sys2Proof.Machine

/-- DECB (R128, R114): `NoKey` first, then the length check; then respond `decryptBlock(RK, PAYLOAD)`. -/
def execDecb (payload : List Byte) (s : State) : Host.Outcome State Fault Refusal :=
  if s.kv = false then .next (s.raise .noKey)
  else if payload.length ≠ 16 then .next (s.raise .invalidBlockSize)
  else .next (s.releaseRound.finish (decryptBlock s.rk (Block.ofBytes payload)).bytes)

end Sys2Proof.Machine
end

