-- ==== Sys2Proof/Machine/Chaining.lean ====
section
/-! DEFINITION. The CBC chaining functions, the stateless path, and ENCC, DECC, ENCE, DECE: spec/44_chaining.md R135 to
R147. -/

namespace Sys2Proof

/-- The block loop of `encryptChained` (R137): `C_i <- encryptBlock(RK, P_i ^ cv)`, `cv <- C_i`; the ciphertext blocks in
buffer order and the last `cv`. -/
def cbcEncrypt (rk : Schedule) : List Block → Block → List Block × Block
  | [], cv => ([], cv)
  | p :: ps, cv =>
    let c := encryptBlock rk (p.xor cv)
    let r := cbcEncrypt rk ps c
    (c :: r.1, r.2)

/-- The block loop of `decryptChained` (R139): `P_i <- decryptBlock(RK, C_i) ^ cv`, `cv <- C_i`, the input block. -/
def cbcDecrypt (rk : Schedule) : List Block → Block → List Block × Block
  | [], cv => ([], cv)
  | c :: cs, cv =>
    let p := (decryptBlock rk c).xor cv
    let r := cbcDecrypt rk cs c
    (p :: r.1, r.2)

/-- `encryptChained(RK, P, iv)` (R137): the ciphertext and `nextIV`. -/
def encryptChained (rk : Schedule) (buf : List Byte) (iv : Block) : List Byte × Block :=
  let r := cbcEncrypt rk (blocks buf) iv
  (joinBlocks r.1, r.2)

/-- `decryptChained(RK, C, iv)` (R139): the plaintext and `nextIV`. -/
def decryptChained (rk : Schedule) (buf : List Byte) (iv : Block) : List Byte × Block :=
  let r := cbcDecrypt rk (blocks buf) iv
  (joinBlocks r.1, r.2)

/-- `encryptEcb(RK, P)` (R144): every block on its own. -/
def encryptEcb (rk : Schedule) (buf : List Byte) : List Byte := joinBlocks ((blocks buf).map (encryptBlock rk))

/-- `decryptEcb(RK, C)` (R145). -/
def decryptEcb (rk : Schedule) (buf : List Byte) : List Byte := joinBlocks ((blocks buf).map (decryptBlock rk))

end Sys2Proof

namespace Sys2Proof.Machine

/-- ENCE (R144, R143): the stateless path; `CV` and `CST` are neither read nor written. -/
def execEnce (payload : List Byte) (s : State) : Host.Outcome State Fault Refusal :=
  if s.kv = false then .next (s.raise .noKey)
  else if bufferLenOk payload.length = false then .next (s.raise .invalidLength)
  else .next (s.releaseBuffer.finish (encryptEcb s.rk payload))

/-- DECE (R145, R143). -/
def execDece (payload : List Byte) (s : State) : Host.Outcome State Fault Refusal :=
  if s.kv = false then .next (s.raise .noKey)
  else if bufferLenOk payload.length = false then .next (s.raise .invalidLength)
  else .next (s.releaseBuffer.finish (decryptEcb s.rk payload))

/-- ENCC (R141, R143): CBC-encrypt from `CV`; `CV <-` the last ciphertext block, `CST <- 1`. -/
def execEncc (payload : List Byte) (s : State) : Host.Outcome State Fault Refusal :=
  if s.kv = false then .next (s.raise .noKey)
  else if bufferLenOk payload.length = false then .next (s.raise .invalidLength)
  else
    let r := encryptChained s.rk payload s.cv
    .next (State.finish { s.releaseBuffer with cv := r.2, cst := .chained } r.1)

/-- DECC (R142, R143): CBC-decrypt from `CV`; `CV <-` the last ciphertext block of the payload, `CST <- 1`. -/
def execDecc (payload : List Byte) (s : State) : Host.Outcome State Fault Refusal :=
  if s.kv = false then .next (s.raise .noKey)
  else if bufferLenOk payload.length = false then .next (s.raise .invalidLength)
  else
    let r := decryptChained s.rk payload s.cv
    .next (State.finish { s.releaseBuffer with cv := r.2, cst := .chained } r.1)

end Sys2Proof.Machine
end

