-- ==== Sys2Proof/Machine/System.lean ====
section
/-! DEFINITION. The IV and status commands LDIV, LDIVD, RDIV, RDST: spec/45_system.md R155 to R161, spec/30_encoding.md
R58. -/

namespace Sys2Proof.Machine

/-- LDIV (R156, R157): `CV <- PAYLOAD`, `CST <- 0`. -/
def execLdiv (payload : List Byte) (s : State) : Host.Outcome State Fault Refusal :=
  if payload.length ≠ 16 then .next (s.raise .invalidBlockSize)
  else .next (State.finish { s with cv := Block.ofBytes payload, cst := .awaitingFirst } [])

/-- LDIVD (R158, R58): `CV <- DEFAULT_IV`, `CST <- 0`. -/
def execLdivd (payload : List Byte) (s : State) : Host.Outcome State Fault Refusal :=
  if payload.length ≠ 0 then .next (s.raise .badCommand)
  else .next (State.finish { s with cv := Config.defaultIV, cst := .awaitingFirst } [])

/-- RDIV (R160, R58): respond `CV`. -/
def execRdiv (payload : List Byte) (s : State) : Host.Outcome State Fault Refusal :=
  if payload.length ≠ 0 then .next (s.raise .badCommand)
  else .next (s.finish s.cv.bytes)

/-- RDST (R161, R58): respond STATUS. A successful RDST writes no state; a failed one writes `ERR`. -/
def execRdst (payload : List Byte) (s : State) : Host.Outcome State Fault Refusal :=
  if payload.length ≠ 0 then .next (s.raise .badCommand)
  else .next (s.respond .ok s.statusBytes)

end Sys2Proof.Machine
end

