-- ==== Sys2Proof/Machine/Dispatch.lean ====
section
/-! DEFINITION. One arm per command: spec/30_encoding.md R50, R56. -/

namespace Sys2Proof.Machine

-- the effect of one decoded command (R8)
def exec (i : Instr) (s : State) : Host.Outcome State Fault Refusal :=
  match i with
  | .keyexp payload => Sys2Proof.Machine.execKeyexp payload s
  | .encb payload => Sys2Proof.Machine.execEncb payload s
  | .decb payload => Sys2Proof.Machine.execDecb payload s
  | .ence payload => Sys2Proof.Machine.execEnce payload s
  | .dece payload => Sys2Proof.Machine.execDece payload s
  | .encc payload => Sys2Proof.Machine.execEncc payload s
  | .decc payload => Sys2Proof.Machine.execDecc payload s
  | .ldiv payload => Sys2Proof.Machine.execLdiv payload s
  | .ldivd payload => Sys2Proof.Machine.execLdivd payload s
  | .rdiv payload => Sys2Proof.Machine.execRdiv payload s
  | .rdst payload => Sys2Proof.Machine.execRdst payload s

end Sys2Proof.Machine
end

