-- ==== Sys2Proof/Machine/Fetch.lean ====
section
/-! DEFINITION. Taking one host event: a frame is decoded and its command executed, or reset strikes. Rules:
spec/30_encoding.md R50, R56, R57, spec/60_exceptions.md R169, R177, spec/70_reset_and_hazards.md R185, R186, R191. -/

namespace Sys2Proof.Machine

/-- Run one frame the host sent (R50): a command is executed; a reserved opcode is answered with `BadCommand`, `LEN` and
`PAYLOAD` ignored (R57, R169); bytes that are no whole frame have no meaning (R191). -/
def runFrame (bytes : List Byte) (s : State) : Host.Outcome State Fault Refusal :=
  match decode bytes with
  | .command i => exec i s
  | .reserved _ => .next (s.raise .badCommand)
  | .malformed => .refused .malformedFrame

/-- The effect of one event. A frame cut by reset is discarded: no response, and the reset state "regardless of how far
the command had gone" (R186). -/
def runEvent (e : HostEvent) (s : State) : Host.Outcome State Fault Refusal :=
  match e with
  | .frame bytes => runFrame bytes s
  | .reset => .next s.applyReset
  | .frameCutByReset _ => .next s.applyReset

/-- Take the oldest event off the list and run it; with no event the core is idle and keeps all its state (R177). -/
def takeEvent (s : State) : Host.Outcome State Fault Refusal :=
  match s.hostEvents with
  | [] => .next s
  | e :: rest => runEvent e { s with hostEvents := rest }

/-- The host's next event becomes this frame, ahead of what it was going to do. -/
def State.sendFirst (s : State) (bytes : List Byte) : State :=
  { s with hostEvents := .frame bytes :: s.hostEvents }

end Sys2Proof.Machine
end

