-- ==== Sys2Proof/Machine/Step.lean ====
section
/-! DEFINITION. One step of the machine: one host event (spec/20_memory.md R37, R41, spec/70_reset_and_hazards.md R192). -/

namespace Sys2Proof.Machine

/-- One step: the core takes the oldest host event and completes it, response included, before the next. -/
def step (s : State) : Host.Outcome State Fault Refusal := takeEvent s

/-- `s` with the instruction whose bits are `w` (`nbits` of them, the bits above zero) as the next frame the host sends, so
that the very next step runs it. -/
def State.withFetchWord (s : State) (nbits w : Nat) : State := s.sendFirst (tableFrame nbits w)

end Sys2Proof.Machine
end

