-- ==== Sys2Proof/Machine/Pseudo.lean ====
section
/-! DEFINITION. The pseudo-commands: the cipher interface's operations written as command sequences,
spec/30_encoding.md R62. -/

namespace Sys2Proof

/-- The pseudo-commands of R62. -/
inductive Pseudo where
  /-- `new(key)` -/
  | newCipher (key : List Byte)
  /-- `encryptBlock(b)` -/
  | encryptBlock (b : List Byte)
  /-- `decryptBlock(b)` -/
  | decryptBlock (b : List Byte)
  /-- `encryptChained(buf, iv)` -/
  | encryptChained (buf iv : List Byte)
  /-- `decryptChained(buf, iv)` -/
  | decryptChained (buf iv : List Byte)
  /-- `encryptChained(buf, DefaultIV)` -/
  | encryptChainedDefault (buf : List Byte)
  /-- continuing a session in place, encrypting -/
  | continueEncrypt (buf : List Byte)
  /-- continuing a session in place, decrypting -/
  | continueDecrypt (buf : List Byte)
  /-- `encrypt(buf)` without IV -/
  | encrypt (buf : List Byte)
  /-- `decrypt(buf)` without IV -/
  | decrypt (buf : List Byte)
  /-- `DefaultIV`, the exposed constant -/
  | defaultIV
deriving DecidableEq, Repr

/-- The expansion of R62. -/
def Pseudo.expand : Pseudo → List Instr
  | .newCipher key => [.keyexp key]
  | .encryptBlock b => [.encb b]
  | .decryptBlock b => [.decb b]
  | .encryptChained buf iv => [.ldiv iv, .encc buf, .rdiv []]
  | .decryptChained buf iv => [.ldiv iv, .decc buf, .rdiv []]
  | .encryptChainedDefault buf => [.ldivd [], .encc buf, .rdiv []]
  | .continueEncrypt buf => [.encc buf]
  | .continueDecrypt buf => [.decc buf]
  | .encrypt buf => [.ence buf]
  | .decrypt buf => [.dece buf]
  | .defaultIV => [.ldivd [], .rdiv []]

/-- How many leading commands of the expansion return no value of the operation (KEYEXP, LDIV, LDIVD). -/
def Pseudo.setup : Pseudo → Nat
  | .newCipher _ => 1
  | .encryptBlock _ => 0
  | .decryptBlock _ => 0
  | .encryptChained _ _ => 1
  | .decryptChained _ _ => 1
  | .encryptChainedDefault _ => 1
  | .continueEncrypt _ => 0
  | .continueDecrypt _ => 0
  | .encrypt _ => 0
  | .decrypt _ => 0
  | .defaultIV => 1

/-- What a host has after a command sequence. -/
inductive SequenceResult where
  /-- every command succeeded: the `RDATA` of each, in order -/
  | success (data : List (List Byte))
  /-- the first failing command's status, after which nothing more was sent -/
  | failure (sts : Byte)
  /-- a command was not answered (never: R50) -/
  | unanswered
deriving DecidableEq, Repr

/-- The `RDATA` of one more, earlier, command. -/
def SequenceResult.prepend (data : List Byte) : SequenceResult → SequenceResult
  | .success ds => .success (data :: ds)
  | .failure sts => .failure sts
  | .unanswered => .unanswered

/-- Only the values the operation returns: the first `n` `RDATA` left out. -/
def SequenceResult.dropData (n : Nat) : SequenceResult → SequenceResult
  | .success ds => .success (ds.drop n)
  | .failure sts => .failure sts
  | .unanswered => .unanswered

end Sys2Proof

namespace Sys2Proof.Machine

/-- The last response the host received, read by R53. -/
def State.lastResponse (s : State) : Option (Byte × List Byte) := s.responses.getLast?.bind decodeResponse

/-- Send commands one after another, stopping at the first whose response is a failure (R62). -/
def runSequence : List Instr → State → SequenceResult × State
  | [], s => (.success [], s)
  | i :: rest, s =>
    match exec i s with
    | .next t =>
      match t.lastResponse with
      | some (sts, data) =>
        if sts = Status.ok.code then
          let r := runSequence rest t
          (r.1.prepend data, r.2)
        else (.failure sts, t)
      | none => (.unanswered, t)
    | .fault _ => (.unanswered, s)
    | .refused _ => (.unanswered, s)

/-- A pseudo-command (R62): its expansion, and the values it returns. -/
def runPseudo (p : Pseudo) (s : State) : SequenceResult × State :=
  let r := runSequence p.expand s
  (r.1.dropData p.setup, r.2)

end Sys2Proof.Machine
end

