-- ==== Sys2Proof/Machine/Sequencer.lean ====
section
/-! DEFINITION. Inside a command: the block sequencer `RND`, the buffer sequencer `BLK`, the block register `ST` and the
fixed order of the transformations, as a micro-program. It is a function of the opcode and the number of blocks only (R196),
and running it computes what the commands respond with. Rules: spec/10_state.md R14, R22, spec/20_memory.md R36,
spec/44_chaining.md R147, spec/70_reset_and_hazards.md R196, R197. `exec` performs a command as one step (R37); this file
says what happens within that step. -/

namespace Sys2Proof

/-- The two orders in which a block transform uses the round keys (R22). -/
inductive KeyOrder where
  /-- encryption: 0, 1, ..., 10 (R111) -/
  | rising
  /-- decryption: 10, 9, ..., 0 (R126) -/
  | falling
deriving DecidableEq, Repr

/-- The round key a block transform uses first: `RND` at its start (R22, R111, R126). -/
def KeyOrder.first : KeyOrder → Fin 11
  | .rising => 0
  | .falling => 10

/-- The round key used after key `r`. There is no wrap-around (R22): after the last key of the order the index stays
(DEDUCED, log entry 8). -/
def KeyOrder.next (o : KeyOrder) (r : Fin 11) : Fin 11 :=
  match o with
  | .rising => if r = 10 then r else r + 1
  | .falling => if r = 0 then r else r - 1

/-- One operation of a command (R196): which transformation, on which block index. The round-key index is `RND`. -/
inductive MicroOp where
  /-- `W[i] <- PAYLOAD[4i .. 4i+3]` (R95) -/
  | loadKeyWord (i : Nat)
  /-- `W[i] <- W[i-4] ^ t` (R95) -/
  | expandWord (i : Nat)
  /-- `ST <- PAYLOAD[0..15]`, and `RND` to the first key of the order: a single-block command (R22, R36) -/
  | loadSingle (o : KeyOrder)
  /-- `BLK <- i ; ST <- MemRead(16i, 16)`, and `RND` to the first key of the order (R22, R36) -/
  | loadBlock (i : Nat) (o : KeyOrder)
  /-- `ST <- AddRoundKey(ST, RK[RND])`, then `RND` to the key used next (R22, R109) -/
  | addRoundKey (o : KeyOrder)
  | subBytes
  | shiftRows
  | mixColumns
  | invSubBytes
  | invShiftRows
  | invMixColumns
  /-- `ST <- ST ^ CV`: the XOR of R137 and R139. R14, R137 and R139 name no register for `P_i ^ cv` and
  `decryptBlock(C_i) ^ cv`; holding both in `ST` is a DESIGN CHOICE (log entry 8) -/
  | xorCv
  /-- `CV <- ST` (R137) -/
  | latchCvFromState
  /-- `CV <- MemRead(16*BLK, 16)` (R139) -/
  | latchCvFromPayload
  /-- `RDATA[0..15] <- ST` (R36) -/
  | storeSingle
  /-- `MemWrite(16*BLK, 16, ST)` (R36) -/
  | storeBlock
deriving DecidableEq, Repr

/-- `RND` after one operation, from `RND` before it: no key, data or `CV` byte is looked at (R22). -/
def MicroOp.rndAfter (op : MicroOp) (rnd : Fin 11) : Fin 11 :=
  match op with
  | .loadSingle o => o.first
  | .loadBlock _ o => o.first
  | .addRoundKey o => o.next rnd
  | .loadKeyWord _ => rnd
  | .expandWord _ => rnd
  | .subBytes => rnd
  | .shiftRows => rnd
  | .mixColumns => rnd
  | .invSubBytes => rnd
  | .invShiftRows => rnd
  | .invMixColumns => rnd
  | .xorCv => rnd
  | .latchCvFromState => rnd
  | .latchCvFromPayload => rnd
  | .storeSingle => rnd
  | .storeBlock => rnd

/-- What the operations of one command work on: the payload, the response data, the round keys, the words being derived,
`CV`, `ST`, `RND`, `BLK`. -/
structure Datapath where
  payload : List Byte
  rdata   : List Byte
  rk      : Schedule
  words   : List Word
  cv      : Block
  st      : Block
  rnd     : Fin 11
  blk     : Nat
deriving DecidableEq, Repr

/-- One operation. -/
def Datapath.apply (d : Datapath) (op : MicroOp) : Datapath :=
  match op with
  | .loadKeyWord i => { d with words := d.words ++ [(blockAt d.payload 0).column (Fin.ofNat 4 i)] }
  | .expandWord i => { d with words := keyStep d.words i }
  | .loadSingle o => { d with rnd := o.first, st := blockAt d.payload 0 }
  | .loadBlock i o => { d with blk := i, rnd := o.first, st := blockAt d.payload i }
  | .addRoundKey o => { d with rnd := o.next d.rnd, st := Sys2Proof.addRoundKey d.st (d.rk.get d.rnd) }
  | .subBytes => { d with st := Sys2Proof.subBytes d.st }
  | .shiftRows => { d with st := Sys2Proof.shiftRows d.st }
  | .mixColumns => { d with st := Sys2Proof.mixColumns d.st }
  | .invSubBytes => { d with st := Sys2Proof.invSubBytes d.st }
  | .invShiftRows => { d with st := Sys2Proof.invShiftRows d.st }
  | .invMixColumns => { d with st := Sys2Proof.invMixColumns d.st }
  | .xorCv => { d with st := d.st.xor d.cv }
  | .latchCvFromState => { d with cv := d.st }
  | .latchCvFromPayload => { d with cv := blockAt d.payload d.blk }
  | .storeSingle => { d with rdata := memWrite d.rdata 0 16 d.st.bytes }
  | .storeBlock => { d with rdata := memWrite d.rdata (16 * d.blk) 16 d.st.bytes }

/-- A list of operations in order. -/
def Datapath.run (d : Datapath) (ops : List MicroOp) : Datapath := ops.foldl Datapath.apply d

/-- The operations of `encryptBlock` (R111). -/
def encryptOps : List MicroOp :=
  .addRoundKey .rising :: encRounds.flatMap (fun _ => [.subBytes, .shiftRows, .mixColumns, .addRoundKey .rising]) ++
    [.subBytes, .shiftRows, .addRoundKey .rising]

/-- The operations of `decryptBlock` (R126). -/
def decryptOps : List MicroOp :=
  .addRoundKey .falling ::
      decRounds.flatMap (fun _ => [.invShiftRows, .invSubBytes, .addRoundKey .falling, .invMixColumns]) ++
    [.invShiftRows, .invSubBytes, .addRoundKey .falling]

/-- The operations of KEYEXP (R95): the key's four words, then forty word steps. -/
def keyExpandOps : List MicroOp := (List.range 4).map .loadKeyWord ++ (List.range' 4 40).map .expandWord

/-- The operations on each of `n` blocks, in buffer order `BLK = 0, 1, ..., n-1` (R147). -/
def eachBlock (n : Nat) (o : KeyOrder) (body : List MicroOp) : List MicroOp :=
  (List.range n).flatMap fun i => .loadBlock i o :: body

/-- The operations of a command that has passed its checks, by opcode and number of blocks (R196). The IV and status
commands perform no transformation. -/
def microProgram (op : Opcode) (n : Nat) : List MicroOp :=
  match op with
  | .keyexp => keyExpandOps
  | .encb => .loadSingle .rising :: encryptOps ++ [.storeSingle]
  | .decb => .loadSingle .falling :: decryptOps ++ [.storeSingle]
  | .ence => eachBlock n .rising (encryptOps ++ [.storeBlock])
  | .dece => eachBlock n .falling (decryptOps ++ [.storeBlock])
  | .encc => eachBlock n .rising (.xorCv :: encryptOps ++ [.latchCvFromState, .storeBlock])
  | .decc => eachBlock n .falling (decryptOps ++ [.xorCv, .storeBlock, .latchCvFromPayload])
  | .ldiv => []
  | .ldivd => []
  | .rdiv => []
  | .rdst => []

/-- The round-key indexes that running an operation list uses, in order: what `RND` holds at each round-key addition
(R22). -/
def Datapath.keysUsed (d : Datapath) : List MicroOp → List (Fin 11)
  | [] => []
  | op :: ops =>
    match op with
    | .addRoundKey _ => d.rnd :: (d.apply op).keysUsed ops
    | _ => (d.apply op).keysUsed ops

/-- The block indexes an operation list takes up, in order (R22). -/
def blockOrder (ops : List MicroOp) : List Nat :=
  ops.filterMap fun
    | .loadBlock i _ => some i
    | _ => none

end Sys2Proof

namespace Sys2Proof.Machine

/-- The datapath at the start of a command (R14: what `ST` holds then has no effect on any result). -/
def State.datapath (s : State) (payload : List Byte) : Datapath where
  payload := payload
  rdata := []
  rk := s.rk
  words := []
  cv := s.cv
  st := s.st
  rnd := s.rnd
  blk := s.blk

/-- The operations the core performs for a command (R196): none when a check fails (R170), else the micro-program. -/
def State.operations (s : State) (i : Instr) : List MicroOp :=
  if commandStatus i.opcode i.len s.kv = .ok then microProgram i.opcode (i.len / 16) else []

end Sys2Proof.Machine
end

