-- ==== Sys2Proof/Machine/Written.lean ====
section
/-! DEFINITION. The written syntax of commands and responses, spec/30_encoding.md R61: `MNEMONIC [hexbytes] ; comment`, and
`-> STS [hexbytes]`. Lines are lists of characters. -/

namespace Sys2Proof

/-- The mnemonics of R55. -/
def Opcode.mnemonic : Opcode → List Char
  | .keyexp => ['K', 'E', 'Y', 'E', 'X', 'P']
  | .encb => ['E', 'N', 'C', 'B']
  | .decb => ['D', 'E', 'C', 'B']
  | .ence => ['E', 'N', 'C', 'E']
  | .dece => ['D', 'E', 'C', 'E']
  | .encc => ['E', 'N', 'C', 'C']
  | .decc => ['D', 'E', 'C', 'C']
  | .ldiv => ['L', 'D', 'I', 'V']
  | .ldivd => ['L', 'D', 'I', 'V', 'D']
  | .rdiv => ['R', 'D', 'I', 'V']
  | .rdst => ['R', 'D', 'S', 'T']

/-- All opcodes in the order of the table. -/
def Opcode.all : List Opcode := [.keyexp, .encb, .decb, .ence, .dece, .encc, .decc, .ldiv, .ldivd, .rdiv, .rdst]

/-- The opcode a mnemonic names. -/
def Opcode.ofMnemonic (name : List Char) : Option Opcode := Opcode.all.find? fun op => op.mnemonic == name

/-- The hex digits; the spec prints the letters in either case. -/
def hexDigits : List Char := ['0', '1', '2', '3', '4', '5', '6', '7', '8', '9', 'a', 'b', 'c', 'd', 'e', 'f']

/-- The capital hex digits. -/
def hexDigitsUpper : List Char := ['0', '1', '2', '3', '4', '5', '6', '7', '8', '9', 'A', 'B', 'C', 'D', 'E', 'F']

/-- The value of a hex digit. -/
def hexValue (c : Char) : Option Nat :=
  match hexDigits.findIdx? (· == c) with
  | some n => some n
  | none => hexDigitsUpper.findIdx? (· == c)

/-- Hex bytes in buffer order: an even number of digits, spaces allowed between byte pairs and ignored (R61). -/
def parseHex : List Char → Option (List Byte)
  | [] => some []
  | [c] => if c = ' ' then some [] else none
  | c :: d :: rest =>
    if c = ' ' then parseHex (d :: rest)
    else
      match hexValue c, hexValue d, parseHex rest with
      | some x, some y, some bs => some (BitVec.ofNat 8 (16 * x + y) :: bs)
      | _, _, _ => none

/-- The two hex digits of a byte. -/
def hexByte (b : Byte) : List Char := [hexDigits.getD (b.toNat / 16) '0', hexDigits.getD (b.toNat % 16) '0']

/-- A payload in hex, buffer order. -/
def hexString (bs : List Byte) : List Char := bs.flatMap hexByte

/-- Read one line (R61): the comment from `;` on is dropped, then the mnemonic, then the payload. `LEN` is not written: it is
the number of bytes given. -/
def parseLine (line : List Char) : Option Instr :=
  let body := (line.takeWhile (· != ';')).dropWhile (· == ' ')
  match Opcode.ofMnemonic (body.takeWhile (· != ' ')), parseHex (body.dropWhile (· != ' ')) with
  | some op, some payload => some (op.instr payload)
  | _, _ => none

/-- The frame a line assembles to: `OPC ‖ be32(LEN) ‖ PAYLOAD` (R61). -/
def assembleLine (line : List Char) : Option (List Byte) := (parseLine line).map encode

/-- A command as a line (R61): the payload is absent when it is empty. -/
def printLine (i : Instr) : List Char :=
  match i.payload with
  | [] => i.opcode.mnemonic
  | b :: bs => i.opcode.mnemonic ++ ' ' :: hexString (b :: bs)

end Sys2Proof

namespace Sys2Proof.Machine

/-- The status names of R166. -/
def Status.name : Status → List Char
  | .ok => ['O', 'K']
  | .invalidKeySize => ['I', 'n', 'v', 'a', 'l', 'i', 'd', 'K', 'e', 'y', 'S', 'i', 'z', 'e']
  | .invalidBlockSize => ['I', 'n', 'v', 'a', 'l', 'i', 'd', 'B', 'l', 'o', 'c', 'k', 'S', 'i', 'z', 'e']
  | .invalidLength => ['I', 'n', 'v', 'a', 'l', 'i', 'd', 'L', 'e', 'n', 'g', 't', 'h']
  | .noKey => ['N', 'o', 'K', 'e', 'y']
  | .badCommand => ['B', 'a', 'd', 'C', 'o', 'm', 'm', 'a', 'n', 'd']

/-- A response as it is written (R61): `-> STS [hexbytes]`. R61 lets `STS` be the status name or its code; writing the name
is a DESIGN CHOICE (log entry 10), and so are lower-case digits without spaces. -/
def printResponse (sts : Status) (rdata : List Byte) : List Char :=
  match rdata with
  | [] => '-' :: '>' :: ' ' :: sts.name
  | b :: bs => '-' :: '>' :: ' ' :: (sts.name ++ ' ' :: hexString (b :: bs))

end Sys2Proof.Machine
end

