-- ==== Sys2Proof/Safety.lean ====
section
/-! DEFINITION. What counts as a safe run: the invariant of the states, and what the host owes. Rules: spec/10_state.md R12,
R17, R18, spec/30_encoding.md R53, R60, spec/60_exceptions.md R166, R172, spec/70_reset_and_hazards.md R191. -/

namespace Sys2Proof.Machine

/-- `Whenever KV = 1, RK = keyExpand(K)` (R12); the key is `RK[0]` itself (R96). -/
def ScheduleDerived (s : State) : Prop := s.kv = true → s.rk = keyExpand (s.rk.get 0)

/-- A status code that the core produces: 0x00 to 0x05 (R60, R166). -/
def codeLegal (b : Byte) : Bool := decide (b.toNat ≤ 5)

/-- A response frame as R53 has it: `5 + RLEN` bytes, a produced status code, no data unless the status is OK. -/
def responseLegal (frame : List Byte) : Bool :=
  match decodeResponse frame with
  | some (sts, rdata) => codeLegal sts && (sts == Status.ok.code || rdata == [])
  | none => false

/-- The invariant every step keeps: the schedule is the key's, `ERR` is a produced status code, and every response so far is
a legal response frame. -/
structure Inv (s : State) : Prop where
  schedule : ScheduleDerived s
  err : codeLegal s.err = true
  responses : ∀ frame ∈ s.responses, responseLegal frame = true

/-- The bytes are one whole frame: exactly `5 + LEN` bytes (R51, R191). -/
def wholeFrame (bytes : List Byte) : Bool := decode bytes != .malformed

/-- An event by which the host keeps what it owes (R191): a frame it sends is whole. -/
def HostEvent.obeys : HostEvent → Bool
  | .frame bytes => wholeFrame bytes
  | .reset => true
  | .frameCutByReset bytes => wholeFrame bytes

/-- The host keeps what it owes in all it is going to do. -/
def State.hostObeys (s : State) : Bool := s.hostEvents.all HostEvent.obeys

/-- `RLEN` of a successful command (R54). -/
def rlenOnSuccess (op : Opcode) (len : Nat) : Nat :=
  match op with
  | .keyexp => 0
  | .encb => 16
  | .decb => 16
  | .ence => len
  | .dece => len
  | .encc => len
  | .decc => len
  | .ldiv => 0
  | .ldivd => 0
  | .rdiv => 16
  | .rdst => 2

/-- The persistent registers of two states agree: `KV`, `RK`, `CV`, `CST`, `ERR` (R10). -/
def SameRegisters (s t : State) : Prop :=
  t.kv = s.kv ∧ t.rk = s.rk ∧ t.cv = s.cv ∧ t.cst = s.cst ∧ t.err = s.err

/-- A step is safe when the machine goes on. -/
def SafeStep (s : State) : Prop := ∃ t, step s = .next t

end Sys2Proof.Machine
end

