-- ==== Sys2Proof/Certificates/Slice0/Obligations.lean ====
section
/-! DEFINITION. The statements for the provers, from the numbered rules of spec/. Each is listed in OBLIGATIONS.json. -/

open Sys2Proof Sys2Proof.Machine

/-! ## Reset and the step -/

/-- R185, R186, R23: the reset state, and what a reset event does, between commands or during one: `KV <- 0`,
`CV <- DEFAULT_IV`, `CST <- 0`, `ERR <- 0x00`, no response; `RK`, `ST`, `RND`, `BLK` become anything. The model's choices
it rests on: `DEFAULT_IV` a constant (log entry 3), one listed event a step (4), the responses kept over reset (5), a frame
cut by reset discarded whatever its bytes (7). -/
def Obligations.ResetEffect : Prop :=
  (State.reset.kv = false ∧ State.reset.cv = Config.defaultIV ∧ State.reset.cst = .awaitingFirst ∧
    State.reset.err = 0x00) ∧
  ∀ (s : State) (rest : List HostEvent),
    (s.hostEvents = .reset :: rest ∨ ∃ bytes, s.hostEvents = .frameCutByReset bytes :: rest) →
    ∃ rk st rnd blk draws, step s = .next
      { s with
        kv := false, cv := Config.defaultIV, cst := .awaitingFirst, err := 0x00
        rk := rk, st := st, rnd := rnd, blk := blk, draws := draws, hostEvents := rest }

/-- A step runs the decoded command (R50, R56); a reserved opcode is answered with `BadCommand` (R57); bytes that are no
whole frame have no meaning (R191); with nothing sent the core idles (R177). One event a step: the
model's form, log entries 4 and 7. -/
def Obligations.StepRunsDecodedCommand : Prop :=
  ∀ s : State,
    (s.hostEvents = [] → step s = .next s) ∧
    ∀ bytes rest, s.hostEvents = .frame bytes :: rest →
      (∀ i, decode bytes = .command i → step s = exec i { s with hostEvents := rest }) ∧
      (∀ opc, decode bytes = .reserved opc → step s = .next
        { s with hostEvents := rest, err := 0x05, responses := s.responses ++ [[0x05, 0, 0, 0, 0]] }) ∧
      (decode bytes = .malformed → step s = .refused .malformedFrame)

/-- What `withFetchWord` places is what the next step runs, whatever else the host was going to do. That a program is the
host's frames is the model's choice, log entry 4. -/
def Obligations.WithFetchWordIsRunNext : Prop :=
  ∀ (s : State) (nbits w : Nat) (i : Instr), decodeTableWord nbits w = some i →
    step (s.withFetchWord nbits w) = exec i s

/-! ## Encoding -/

/-- R51, R56: every well-formed command is read back from its frame, with every payload byte. -/
def Obligations.DecodeEncodeRoundTrip : Prop :=
  ∀ i : Instr, i.wf = true → decode (encode i) = .command i

/-- R51, R56: each frame that decodes to a command is the one frame of that command. -/
def Obligations.EncodeDecodeRoundTrip : Prop :=
  ∀ (frame : List Byte) (i : Instr), decode frame = .command i → encode i = frame ∧ i.wf = true

/-- R57: the 245 reserved opcodes are answered with `BadCommand`, whatever their `LEN` and `PAYLOAD`, and nothing but `ERR`
changes. -/
def Obligations.ReservedOpcodesAnswered : Prop :=
  (∀ (s : State) (opc : Byte) (payload : List Byte), (opc = 0x00 ∨ 0x0C ≤ opc.toNat) → payload.length < 2 ^ 32 →
    runFrame (opc :: (be32 payload.length ++ payload)) s = .next
      { s with err := 0x05, responses := s.responses ++ [[0x05, 0, 0, 0, 0]] }) ∧
  ((List.range 256).filter fun n => (Opcode.ofByte (BitVec.ofNat 8 n)).isNone).length = 245

/-- R55: the eleven opcodes, each written out as the table has it, with an empty payload; every other byte is reserved. -/
def Obligations.OpcodeTableDecodes : Prop :=
  decode [0x01, 0, 0, 0, 0] = .command (.keyexp []) ∧ decode [0x02, 0, 0, 0, 0] = .command (.encb []) ∧
  decode [0x03, 0, 0, 0, 0] = .command (.decb []) ∧ decode [0x04, 0, 0, 0, 0] = .command (.ence []) ∧
  decode [0x05, 0, 0, 0, 0] = .command (.dece []) ∧ decode [0x06, 0, 0, 0, 0] = .command (.encc []) ∧
  decode [0x07, 0, 0, 0, 0] = .command (.decc []) ∧ decode [0x08, 0, 0, 0, 0] = .command (.ldiv []) ∧
  decode [0x09, 0, 0, 0, 0] = .command (.ldivd []) ∧ decode [0x0A, 0, 0, 0, 0] = .command (.rdiv []) ∧
  decode [0x0B, 0, 0, 0, 0] = .command (.rdst []) ∧
  ∀ opc : Byte, (opc = 0x00 ∨ 0x0C ≤ opc.toNat) → decode [opc, 0, 0, 0, 0] = .reserved opc

/-- R56: decoding is total. Every byte sequence of `5 + LEN` bytes decodes, by frame byte 0 alone, to the command of that
opcode with its payload or to *reserved*; any other sequence is no frame (the model's `malformed`, log entry 7). -/
def Obligations.FrameDecodingIsTotal : Prop :=
  (∀ (opc l1 l2 l3 l4 : Byte) (payload : List Byte),
    payload.length = 2 ^ 24 * l1.toNat + 2 ^ 16 * l2.toNat + 2 ^ 8 * l3.toNat + l4.toNat →
    decode (opc :: l1 :: l2 :: l3 :: l4 :: payload) =
      if opc = 0x01 then .command (.keyexp payload)
      else if opc = 0x02 then .command (.encb payload)
      else if opc = 0x03 then .command (.decb payload)
      else if opc = 0x04 then .command (.ence payload)
      else if opc = 0x05 then .command (.dece payload)
      else if opc = 0x06 then .command (.encc payload)
      else if opc = 0x07 then .command (.decc payload)
      else if opc = 0x08 then .command (.ldiv payload)
      else if opc = 0x09 then .command (.ldivd payload)
      else if opc = 0x0A then .command (.rdiv payload)
      else if opc = 0x0B then .command (.rdst payload)
      else .reserved opc) ∧
  (∀ (opc l1 l2 l3 l4 : Byte) (payload : List Byte),
    payload.length ≠ 2 ^ 24 * l1.toNat + 2 ^ 16 * l2.toNat + 2 ^ 8 * l3.toNat + l4.toNat →
    decode (opc :: l1 :: l2 :: l3 :: l4 :: payload) = .malformed) ∧
  ∀ bytes : List Byte, bytes.length < 5 → decode bytes = .malformed

/-- R51: a receiver can cut a byte stream into frames without knowing the opcodes. -/
def Obligations.FrameStreamIsCut : Prop :=
  ∀ (opc : Byte) (payload rest : List Byte), payload.length < 2 ^ 32 →
    splitFrame (opc :: (be32 payload.length ++ payload) ++ rest) =
      some (opc :: (be32 payload.length ++ payload), rest)

/-- R53: a response frame is `5 + RLEN` bytes and is read back as its status and data. -/
def Obligations.ResponseFrameReadsBack : Prop :=
  ∀ (sts : Byte) (rdata : List Byte), rdata.length < 2 ^ 32 →
    (encodeResponse sts rdata).length = 5 + rdata.length ∧
    decodeResponse (encodeResponse sts rdata) = some (sts, rdata)

/-- R61: a command printed as a line, with or without a comment behind it, is read back and assembles to its frame.
Details of the line beyond R61 are the model's, log entry 10. -/
def Obligations.WrittenSyntaxReadsBack : Prop :=
  ∀ (i : Instr) (comment : List Char),
    parseLine (printLine i) = some i ∧ parseLine (printLine i ++ ' ' :: ';' :: comment) = some i ∧
    assembleLine (printLine i) = some (i.opcode.byte :: (be32 i.payload.length ++ i.payload))

/-! ## Bytes and tables -/

/-- R31: byte `r + 4c` of a block stands at row `r`, column `c`, and the block is read out the same way. -/
def Obligations.BlockStateMapping : Prop :=
  ∀ l : List Byte, l.length = 16 →
    (∀ r c : Fin 4, l[r.val + 4 * c.val]? = some ((Block.ofBytes l).cell r c)) ∧ (Block.ofBytes l).bytes = l

/-- R73: `gmul` is the sum of `xtime^i(a)` over the bits `i` set in `b`; it is commutative, associative, distributes over `^`, has identity `0x01` and annihilator `0x00`. -/
def Obligations.FieldProductLaws : Prop :=
  (∀ a b c : Byte, gmul a b = gmul b a ∧ gmul (gmul a b) c = gmul a (gmul b c) ∧
    gmul a (b ^^^ c) = gmul a b ^^^ gmul a c ∧ gmul a 0x01 = a ∧ gmul 0x01 a = a ∧ gmul a 0x00 = 0x00) ∧
  (∀ a b : Byte, gmul a b =
    (List.range 8).foldl (fun r i => if b.getLsbD i then r ^^^ xtime^[i] a else r) 0x00) ∧
  gmul 0x57 0x83 = 0xC1 ∧ gmul 0x57 0x13 = 0xFE ∧ gmul 0xFF 0xFF = 0x13 ∧ gmul 0x80 0x02 = 0x1B

/-- R74: `ginv(a)` is the unique inverse of `a != 0`, is `a^254`, and `ginv(0) = 0`. -/
def Obligations.FieldInverse : Prop :=
  (∀ a : Byte, a ≠ 0x00 → ∀ b : Byte, gmul a b = 0x01 ↔ b = ginv a) ∧
  (∀ a : Byte, ginv a = (gmul a)^[254] 0x01) ∧
  ginv 0x00 = 0x00 ∧ ginv 0x01 = 0x01 ∧ ginv 0x02 = 0x8D ∧ ginv 0x53 = 0xCA ∧ ginv 0xFF = 0x1C

/-- R75, R77: the two tables are what their definitions say and inverse permutations. R76, the spec's own inference from R75:
no fixed point and no opposite fixed point. -/
def Obligations.SubstitutionTables : Prop :=
  ∀ a : Byte,
    sbox a = affine (ginv a) ∧
    (∀ i : Fin 8, (sbox a).getLsbD i.val = ((ginv a).getLsbD i.val ^^ (ginv a).getLsbD ((i.val + 4) % 8) ^^
      (ginv a).getLsbD ((i.val + 5) % 8) ^^ (ginv a).getLsbD ((i.val + 6) % 8) ^^ (ginv a).getLsbD ((i.val + 7) % 8) ^^
      (0x63 : Byte).getLsbD i.val)) ∧
    sbox a ≠ a ∧ sbox a ≠ a ^^^ 0xFF ∧
    invSbox (sbox a) = a ∧ sbox (invSbox a) = a ∧ invSbox a = ginv (invaffine a)

/-- R79, R80: the round constants, and the six constant multipliers as field products. -/
def Obligations.ConstantsAndMultipliers : Prop :=
  (rcon 1 = 0x01 ∧ (∀ i : Nat, 2 ≤ i → i ≤ 10 → rcon i = xtime (rcon (i - 1))) ∧
    (List.range' 1 10).map rcon = [0x01, 0x02, 0x04, 0x08, 0x10, 0x20, 0x40, 0x80, 0x1B, 0x36]) ∧
  ∀ a : Byte, m2 a = gmul a 0x02 ∧ m3 a = gmul a 0x03 ∧ m9 a = gmul a 0x09 ∧ m11 a = gmul a 0x0B ∧
    m13 a = gmul a 0x0D ∧ m14 a = gmul a 0x0E

/-! ## Key schedule -/

/-- R95, R96, R12: `W[0..3]` are the key's words and `RK[0] = K`; for `i` in 4..43,
`W[i] = W[i-4] ^ t` with `t = SubWord(RotWord(W[i-1])) ^ Rcon(i div 4)` when `i mod 4 = 0`, else `t = W[i-1]`. -/
def Obligations.KeyExpansionRecurrence : Prop :=
  ∀ k : Block,
    (keyExpand k).get 0 = k ∧
    (∀ j : Fin 4, (keyExpand k).word ⟨j.val, by omega⟩ = k.column j) ∧
    ∀ j : Fin 40,
      (keyExpand k).word ⟨j.val + 4, by omega⟩ =
        ((keyExpand k).word ⟨j.val, by omega⟩).xor
          (if (j.val + 4) % 4 = 0 then
            xorRcon (subWord (rotWord ((keyExpand k).word ⟨j.val + 3, by omega⟩))) ((j.val + 4) / 4)
          else (keyExpand k).word ⟨j.val + 3, by omega⟩)

/-- R98: `RK[r] = nextRoundKey(RK[r-1], r)` for `r` in 1..10. -/
def Obligations.NextRoundKeyRecurrence : Prop :=
  ∀ (k : Block) (r : Fin 10), (keyExpand k).get r.succ = nextRoundKey ((keyExpand k).get r.castSucc) (r.val + 1)

/-! ## Round transformations and block functions -/

/-- R106, R107, R121, R122: the substitutions byte by byte, the two row shifts as the permutations `SR[n] = 5n mod 16` and
`ISR[n] = 13n mod 16`, and each is undone by its inverse. -/
def Obligations.SubstitutionAndShiftInverses : Prop :=
  ∀ (s : Block) (n : Fin 16),
    (subBytes s).get n = sbox (s.get n) ∧ (invSubBytes s).get n = invSbox (s.get n) ∧
    (shiftRows s).get n = s.get ⟨5 * n.val % 16, by omega⟩ ∧
    (invShiftRows s).get n = s.get ⟨13 * n.val % 16, by omega⟩ ∧
    invSubBytes (subBytes s) = s ∧ subBytes (invSubBytes s) = s ∧
    invShiftRows (shiftRows s) = s ∧ shiftRows (invShiftRows s) = s

/-- R108, R123: the two column mixes are the products with the circulant matrices 02 03 01 01 and 0E 0B 0D 09; they are linear over `^`, keep a column of equal bytes, and undo each other. -/
def Obligations.MixColumnsLaws : Prop :=
  (∀ a : Word,
    mixColumn a =
      ⟨gmul a.w0 0x02 ^^^ gmul a.w1 0x03 ^^^ a.w2 ^^^ a.w3, a.w0 ^^^ gmul a.w1 0x02 ^^^ gmul a.w2 0x03 ^^^ a.w3,
       a.w0 ^^^ a.w1 ^^^ gmul a.w2 0x02 ^^^ gmul a.w3 0x03, gmul a.w0 0x03 ^^^ a.w1 ^^^ a.w2 ^^^ gmul a.w3 0x02⟩ ∧
    invMixColumn a =
      ⟨gmul a.w0 0x0E ^^^ gmul a.w1 0x0B ^^^ gmul a.w2 0x0D ^^^ gmul a.w3 0x09,
       gmul a.w0 0x09 ^^^ gmul a.w1 0x0E ^^^ gmul a.w2 0x0B ^^^ gmul a.w3 0x0D,
       gmul a.w0 0x0D ^^^ gmul a.w1 0x09 ^^^ gmul a.w2 0x0E ^^^ gmul a.w3 0x0B,
       gmul a.w0 0x0B ^^^ gmul a.w1 0x0D ^^^ gmul a.w2 0x09 ^^^ gmul a.w3 0x0E⟩) ∧
  (∀ s : Block, mixColumns s = ⟨mixColumn s.c0, mixColumn s.c1, mixColumn s.c2, mixColumn s.c3⟩ ∧
    invMixColumns s = ⟨invMixColumn s.c0, invMixColumn s.c1, invMixColumn s.c2, invMixColumn s.c3⟩) ∧
  (∀ s t : Block,
    mixColumns (s.xor t) = (mixColumns s).xor (mixColumns t) ∧
    invMixColumns (s.xor t) = (invMixColumns s).xor (invMixColumns t) ∧
    invMixColumns (mixColumns s) = s ∧ mixColumns (invMixColumns s) = s) ∧
  mixColumns Block.zero = Block.zero ∧
  (∀ a : Byte, mixColumn ⟨a, a, a, a⟩ = ⟨a, a, a, a⟩ ∧ invMixColumn ⟨a, a, a, a⟩ = ⟨a, a, a, a⟩) ∧
  mixColumn ⟨0xDB, 0x13, 0x53, 0x45⟩ = ⟨0x8E, 0x4D, 0xA1, 0xBC⟩ ∧
  invMixColumn ⟨0x8E, 0x4D, 0xA1, 0xBC⟩ = ⟨0xDB, 0x13, 0x53, 0x45⟩

/-- R127, R112: decryption undoes encryption and encryption undoes decryption, for every schedule and every block. -/
def Obligations.BlockRoundTrip : Prop :=
  ∀ (rk : Schedule) (b : Block),
    decryptBlock rk (encryptBlock rk b) = b ∧ encryptBlock rk (decryptBlock rk b) = b

/-! ## Chaining -/

/-- R137, R138, R139: what every block of the two chained functions is, and the chaining value they return. -/
def Obligations.ChainedBlockFormula : Prop :=
  ∀ (rk : Schedule) (buf : List Byte) (iv : Block), buf ≠ [] → buf.length % 16 = 0 →
    (encryptChained rk buf iv).1.length = buf.length ∧
    (∀ i, i < buf.length / 16 →
      blockAt (encryptChained rk buf iv).1 i =
        encryptBlock rk ((blockAt buf i).xor (if i = 0 then iv else blockAt (encryptChained rk buf iv).1 (i - 1)))) ∧
    (encryptChained rk buf iv).2 = blockAt (encryptChained rk buf iv).1 (buf.length / 16 - 1) ∧
    (decryptChained rk buf iv).1.length = buf.length ∧
    (∀ i, i < buf.length / 16 →
      blockAt (decryptChained rk buf iv).1 i =
        (decryptBlock rk (blockAt buf i)).xor (if i = 0 then iv else blockAt buf (i - 1))) ∧
    (decryptChained rk buf iv).2 = blockAt buf (buf.length / 16 - 1)

/-- R149: chained decryption from the same IV undoes chained encryption and returns the same chaining value; from another
IV only block 0 differs, by `iv ^ iv'`; and the same on the device, where the run of two commands is the model's `runSequence`
(log entry 10). -/
def Obligations.ChainedRoundTrip : Prop :=
  (∀ (rk : Schedule) (m : List Byte) (iv iv' : Block), m ≠ [] → m.length % 16 = 0 →
    decryptChained rk (encryptChained rk m iv).1 iv = (m, (encryptChained rk m iv).2) ∧
    blockAt (decryptChained rk (encryptChained rk m iv).1 iv').1 0 = ((blockAt m 0).xor iv).xor iv' ∧
    ∀ i, 0 < i → i < m.length / 16 →
      blockAt (decryptChained rk (encryptChained rk m iv).1 iv').1 i = blockAt m i) ∧
  ∀ (s : State) (iv m : List Byte), s.kv = true → iv.length = 16 → bufferLenOk m.length = true →
    ∃ c t u, runSequence [.ldiv iv, .encc m] s = (.success [[], c], t) ∧
      runSequence [.ldiv iv, .decc c] t = (.success [[], m], u)

/-- R148: a buffer sent in two fragments gives what the whole buffer gives, for both chained functions, and on the
device, where the run of commands is the model's `runSequence` (log entry 10). -/
def Obligations.ContinuationAcrossFragments : Prop :=
  (∀ (rk : Schedule) (a b : List Byte) (iv : Block), a.length % 16 = 0 → b.length % 16 = 0 →
    encryptChained rk (a ++ b) iv =
      ((encryptChained rk a iv).1 ++ (encryptChained rk b (encryptChained rk a iv).2).1,
        (encryptChained rk b (encryptChained rk a iv).2).2) ∧
    decryptChained rk (a ++ b) iv =
      ((decryptChained rk a iv).1 ++ (decryptChained rk b (decryptChained rk a iv).2).1,
        (decryptChained rk b (decryptChained rk a iv).2).2)) ∧
  ∀ (s : State) (a b : List Byte), s.kv = true → bufferLenOk a.length = true → bufferLenOk b.length = true →
    bufferLenOk (a ++ b).length = true →
    (∃ ca cb t u, runSequence [.encc a, .encc b] s = (.success [ca, cb], t) ∧
      runSequence [.encc (a ++ b)] s = (.success [ca ++ cb], u) ∧ t.cv = u.cv) ∧
    (∃ pa pb t u, runSequence [.decc a, .decc b] s = (.success [pa, pb], t) ∧
      runSequence [.decc (a ++ b)] s = (.success [pa ++ pb], u) ∧ t.cv = u.cv)

/-- R150: flipping bits `d` in ciphertext block `i` garbles plaintext block `i`, flips exactly `d` in block `i+1` (or in the
chaining value when `i` is the last block) and leaves every other block as it was. -/
def Obligations.BitFlipPropagation : Prop :=
  ∀ (rk : Schedule) (cs : List Block) (iv d c : Block) (i : Nat), cs[i]? = some c → d ≠ Block.zero →
    let ps := blocks (decryptChained rk (joinBlocks cs) iv).1
    let ps' := blocks (decryptChained rk (joinBlocks (cs.set i (c.xor d))) iv).1
    ps'[i]? = some ((decryptBlock rk (c.xor d)).xor (if i = 0 then iv else cs.getD (i - 1) Block.zero)) ∧
    ps'[i]? ≠ ps[i]? ∧
    ps'[i + 1]? = ps[i + 1]?.map (fun p => p.xor d) ∧
    (∀ j, j ≠ i → j ≠ i + 1 → ps'[j]? = ps[j]?) ∧
    (decryptChained rk (joinBlocks (cs.set i (c.xor d))) iv).2 =
      if i + 1 = cs.length then c.xor d else (decryptChained rk (joinBlocks cs) iv).2

/-- R151: with a zero chaining value the chained and the stateless path agree on block 0, and on block 1 only if the first
ciphertext block is zero. -/
def Obligations.ChainedAndStatelessAgreement : Prop :=
  ∀ (rk : Schedule) (buf : List Byte), buf.length % 16 = 0 →
    (16 ≤ buf.length → blockAt (encryptChained rk buf Block.zero).1 0 = blockAt (encryptEcb rk buf) 0) ∧
    (32 ≤ buf.length →
      (blockAt (encryptChained rk buf Block.zero).1 1 = blockAt (encryptEcb rk buf) 1 ↔
        blockAt (encryptChained rk buf Block.zero).1 0 = Block.zero))

/-- R144, R145: the stateless path treats each block on its own, and decryption undoes encryption. -/
def Obligations.StatelessPathLaws : Prop :=
  ∀ (rk : Schedule) (a b : List Byte), a.length % 16 = 0 → b.length % 16 = 0 →
    encryptEcb rk (a ++ b) = encryptEcb rk a ++ encryptEcb rk b ∧
    decryptEcb rk (a ++ b) = decryptEcb rk a ++ decryptEcb rk b ∧
    decryptEcb rk (encryptEcb rk a) = a ∧ encryptEcb rk (decryptEcb rk a) = a ∧
    (∀ i, i < a.length / 16 → blockAt (encryptEcb rk a) i = encryptBlock rk (blockAt a i) ∧
      blockAt (decryptEcb rk a) i = decryptBlock rk (blockAt a i))

/-! ## The commands: results, completion, frame

Each gives the whole next state: every field not named is unchanged, but for the transient registers (`ST`, `RND`, and `BLK`
of a multi-block command) and the counter of free values, which may hold anything. -/

/-- R99: KEYEXP of 16 bytes derives the schedule and changes nothing else. -/
def Obligations.KeyexpDerivesSchedule : Prop :=
  ∀ (s : State) (p : List Byte), p.length = 16 →
    exec (.keyexp p) s = .next
      { s with
        rk := keyExpand (Block.ofBytes p), kv := true, err := 0x00
        responses := s.responses ++ [[0x00, 0, 0, 0, 0]] }

/-- R113, R128: with a key, ENCB and DECB of one block answer its transform. -/
def Obligations.SingleBlockTransforms : Prop :=
  ∀ (s : State) (p : List Byte), s.kv = true → p.length = 16 →
    (∃ st rnd draws, exec (.encb p) s = .next
      { s with
        err := 0x00, st := st, rnd := rnd, draws := draws
        responses := s.responses ++ [[0x00, 0, 0, 0, 0x10] ++ (encryptBlock s.rk (Block.ofBytes p)).bytes] }) ∧
    (∃ st rnd draws, exec (.decb p) s = .next
      { s with
        err := 0x00, st := st, rnd := rnd, draws := draws
        responses := s.responses ++ [[0x00, 0, 0, 0, 0x10] ++ (decryptBlock s.rk (Block.ofBytes p)).bytes] })

/-- R144, R145: with a key and a legal length, ENCE and DECE answer the blocks' transforms and leave `CV` and `CST`
alone. -/
def Obligations.StatelessBufferTransforms : Prop :=
  ∀ (s : State) (p : List Byte), s.kv = true → p.length ≠ 0 → p.length % 16 = 0 → p.length ≤ Config.maxLen →
    (∃ st rnd blk draws, exec (.ence p) s = .next
      { s with
        err := 0x00, st := st, rnd := rnd, blk := blk, draws := draws
        responses := s.responses ++ [0x00 :: (be32 p.length ++ encryptEcb s.rk p)] }) ∧
    (∃ st rnd blk draws, exec (.dece p) s = .next
      { s with
        err := 0x00, st := st, rnd := rnd, blk := blk, draws := draws
        responses := s.responses ++ [0x00 :: (be32 p.length ++ decryptEcb s.rk p)] })

/-- R141, R142: with a key and a legal length, ENCC and DECC answer the chained transform from `CV`, set `CV` to the last
ciphertext block and `CST` to chained. -/
def Obligations.ChainedBufferTransforms : Prop :=
  ∀ (s : State) (p : List Byte), s.kv = true → p.length ≠ 0 → p.length % 16 = 0 → p.length ≤ Config.maxLen →
    (∃ st rnd blk draws, exec (.encc p) s = .next
      { s with
        cv := (encryptChained s.rk p s.cv).2, cst := .chained
        err := 0x00, st := st, rnd := rnd, blk := blk, draws := draws
        responses := s.responses ++ [0x00 :: (be32 p.length ++ (encryptChained s.rk p s.cv).1)] }) ∧
    (∃ st rnd blk draws, exec (.decc p) s = .next
      { s with
        cv := (decryptChained s.rk p s.cv).2, cst := .chained
        err := 0x00, st := st, rnd := rnd, blk := blk, draws := draws
        responses := s.responses ++ [0x00 :: (be32 p.length ++ (decryptChained s.rk p s.cv).1)] })

/-- R156, R158: LDIV of 16 bytes and LDIVD load `CV` and open a session. -/
def Obligations.IvLoads : Prop :=
  ∀ s : State,
    (∀ p : List Byte, p.length = 16 → exec (.ldiv p) s = .next
      { s with
        cv := Block.ofBytes p, cst := .awaitingFirst, err := 0x00
        responses := s.responses ++ [[0x00, 0, 0, 0, 0]] }) ∧
    exec (.ldivd []) s = .next
      { s with
        cv := Config.defaultIV, cst := .awaitingFirst, err := 0x00
        responses := s.responses ++ [[0x00, 0, 0, 0, 0]] }

/-- R160, R161: RDIV answers `CV` and writes `ERR` only; RDST answers the two STATUS bytes and writes nothing. -/
def Obligations.RegisterReads : Prop :=
  ∀ s : State,
    exec (.rdiv []) s = .next
      { s with err := 0x00, responses := s.responses ++ [[0x00, 0, 0, 0, 0x10] ++ s.cv.bytes] } ∧
    exec (.rdst []) s = .next
      { s with
        responses := s.responses ++
          [[0x00, 0, 0, 0, 0x02, (if s.cst = .chained then 2 else 0) + (if s.kv = true then 1 else 0), s.err]] }

/-- R18: STATUS is two bytes. Byte 0 has `KV` in bit 0, `CST` in bit 1 and zeros in bits 7:2; byte 1 is `ERR`; at reset all
fields are 0. -/
def Obligations.StatusByteFields : Prop :=
  (∀ s : State, ∃ b0 : Byte, s.statusBytes = [b0, s.err] ∧
    b0.getLsbD 0 = s.kv ∧ b0.getLsbD 1 = decide (s.cst = .chained) ∧ ∀ i : Nat, 2 ≤ i → i < 8 → b0.getLsbD i = false) ∧
  State.reset.statusBytes = [0x00, 0x00]

/-- R54: the number of data bytes of every successful command; every command that passes its checks completes. -/
def Obligations.ResponseLengths : Prop :=
  ∀ (i : Instr) (s : State), commandStatus i.opcode i.len s.kv = .ok →
    ∃ t rdata, exec i s = .next t ∧ t.responses = s.responses ++ [encodeResponse 0x00 rdata] ∧
      rdata.length = rlenOnSuccess i.opcode i.len

/-! ## Errors -/

/-- R100: KEYEXP with `LEN != 16` fails with `InvalidKeySize` and changes nothing but `ERR`. -/
def Obligations.InvalidKeySizeError : Prop :=
  ∀ (s : State) (p : List Byte), p.length ≠ 16 →
    exec (.keyexp p) s = .next { s with err := 0x01, responses := s.responses ++ [[0x01, 0, 0, 0, 0]] }

/-- R168, R169: without a key every transform command fails with `NoKey`, whatever its `LEN`, and changes nothing but
`ERR`. -/
def Obligations.NoKeyError : Prop :=
  ∀ (s : State) (p : List Byte) (i : Instr), s.kv = false →
    i ∈ [Instr.encb p, .decb p, .ence p, .dece p, .encc p, .decc p] →
    exec i s = .next { s with err := 0x04, responses := s.responses ++ [[0x04, 0, 0, 0, 0]] }

/-- R114, R157: ENCB and DECB with a key, and LDIV, fail with `InvalidBlockSize` when `LEN != 16`, and change nothing but
`ERR`. -/
def Obligations.InvalidBlockSizeError : Prop :=
  ∀ (s : State) (p : List Byte), p.length ≠ 16 →
    (s.kv = true → ∀ i ∈ [Instr.encb p, .decb p],
      exec i s = .next { s with err := 0x02, responses := s.responses ++ [[0x02, 0, 0, 0, 0]] }) ∧
    exec (.ldiv p) s = .next { s with err := 0x02, responses := s.responses ++ [[0x02, 0, 0, 0, 0]] }

/-- R143: with a key, the multi-block commands fail with `InvalidLength` when `LEN` is zero, not a multiple of 16, or above
`MAX_LEN`, and change nothing but `ERR`; `LEN` 0, 1, 15, 17, 24, 31 are refused and 16, 32, 48 accepted. -/
def Obligations.InvalidLengthError : Prop :=
  (∀ (s : State) (p : List Byte) (i : Instr), s.kv = true →
    (p.length = 0 ∨ p.length % 16 ≠ 0 ∨ Config.maxLen < p.length) →
    i ∈ [Instr.encc p, .decc p, .ence p, .dece p] →
    exec i s = .next { s with err := 0x03, responses := s.responses ++ [[0x03, 0, 0, 0, 0]] }) ∧
  (∀ n ∈ [0, 1, 15, 17, 24, 31], bufferLenOk n = false) ∧ (∀ n ∈ [16, 32, 48], bufferLenOk n = true)

/-- R58: LDIVD, RDIV and RDST with a payload fail with `BadCommand` and change nothing but `ERR`. -/
def Obligations.OperandOnNoOperandCommand : Prop :=
  ∀ (s : State) (p : List Byte) (i : Instr), p.length ≠ 0 → i ∈ [Instr.ldivd p, .rdiv p, .rdst p] →
    exec i s = .next { s with err := 0x05, responses := s.responses ++ [[0x05, 0, 0, 0, 0]] }

/-- R170, R17, R165: a command fails exactly as `commandStatus` of its opcode, `LEN` and `KV` says; a failure is one error
entry and nothing else, and `ERR` after any command is the status of the last command other than a successful RDST. -/
def Obligations.ErrorEntryAndErr : Prop :=
  ∀ (i : Instr) (s : State),
    (commandStatus i.opcode i.len s.kv ≠ .ok → exec i s = .next
      { s with
        err := (commandStatus i.opcode i.len s.kv).code
        responses := s.responses ++ [(commandStatus i.opcode i.len s.kv).code :: [0, 0, 0, 0]] }) ∧
    ∀ t, exec i s = .next t →
      t.err = if i.opcode = .rdst ∧ i.len = 0 then s.err else (commandStatus i.opcode i.len s.kv).code

/-- R172: after a failed command every command but a successful RDST behaves as if the failed one had not been sent: the same
response and the same registers. -/
def Obligations.FailedCommandLeavesNoTrace : Prop :=
  ∀ (i j : Instr) (s t : State), commandStatus i.opcode i.len s.kv ≠ .ok → exec i s = .next t →
    ¬ (j.opcode = .rdst ∧ j.len = 0) →
    ∃ u v frame, exec j s = .next u ∧ exec j t = .next v ∧ SameRegisters u v ∧
      u.responses = s.responses ++ [frame] ∧ v.responses = t.responses ++ [frame]

/-! ## Rules about the whole machine -/

/-- R12, R60, R53: at reset the invariant holds. -/
def Obligations.ResetSatisfiesInvariant : Prop := Inv State.reset

/-- R12, R60, R166, R53: every step keeps the invariant: while `KV = 1` the schedule is the expansion of its first round key,
`ERR` is a code the core produces, and every response is a legal frame. -/
def Obligations.StepKeepsInvariant : Prop :=
  ∀ s t : State, Inv s → step s = .next t → Inv t

/-- R172, R173, R191: no frame stops the core. Every command completes from every state; a step is refused exactly when the
host's bytes are no whole frame; it never faults; and while the host sends whole frames every step completes. The refusal is the model's,
log entry 7. -/
def Obligations.WholeFramesNeverStop : Prop :=
  (∀ (i : Instr) (s : State), ∃ t, exec i s = .next t) ∧
  (∀ s : State, (∃ r, step s = .refused r) ↔
    ∃ bytes rest, s.hostEvents = .frame bytes :: rest ∧ wholeFrame bytes = false) ∧
  (∀ s f, step s ≠ .fault f) ∧
  ∀ s : State, s.hostObeys = true → SafeStep s ∧ ∀ t, step s = .next t → t.hostObeys = true

/-- R50, R53: each event is taken once; a frame is answered with exactly one response frame, with no data unless its status is
OK; a reset is not answered; earlier responses stay. The two lists are
the model's form, log entries 4 and 5. -/
def Obligations.OneResponsePerFrame : Prop :=
  ∀ (s t : State) (e : HostEvent) (rest : List HostEvent), s.hostEvents = e :: rest → step s = .next t →
    t.hostEvents = rest ∧
    match e with
    | .frame _ => ∃ sts rdata, t.responses = s.responses ++ [encodeResponse sts rdata] ∧ (sts ≠ 0x00 → rdata = [])
    | .reset => t.responses = s.responses
    | .frameCutByReset _ => t.responses = s.responses

/-- R11, R13: `KV` and `RK` change only by a KEYEXP frame of 16 key bytes, which sets both, or by reset, which clears
`KV`. -/
def Obligations.KeyWrittenOnlyByKeyexp : Prop :=
  ∀ s t : State, step s = .next t →
    (t.kv = s.kv ∧ t.rk = s.rk) ∨
    (∃ p rest, s.hostEvents = .frame (encode (.keyexp p)) :: rest ∧ p.length = 16 ∧ t.kv = true ∧
      t.rk = keyExpand (Block.ofBytes p)) ∨
    (∃ rest, (s.hostEvents = .reset :: rest ∨ ∃ bytes, s.hostEvents = .frameCutByReset bytes :: rest) ∧ t.kv = false)

/-- R146, R15, R16: the session state machine. A failed command, and every command but LDIV, LDIVD, ENCC and DECC, changes
neither `CST` nor `CV`; reset returns to awaiting the first block with `DEFAULT_IV`. -/
def Obligations.SessionStateMachine : Prop :=
  (∀ (s t : State) (rest : List HostEvent), s.hostEvents = .reset :: rest → step s = .next t →
    t.cst = .awaitingFirst ∧ t.cv = Config.defaultIV) ∧
  ∀ (i : Instr) (s t : State), exec i s = .next t →
    match i with
    | .ldiv p =>
      if p.length = 16 then t.cst = .awaitingFirst ∧ t.cv = Block.ofBytes p else t.cst = s.cst ∧ t.cv = s.cv
    | .ldivd p => if p = [] then t.cst = .awaitingFirst ∧ t.cv = Config.defaultIV else t.cst = s.cst ∧ t.cv = s.cv
    | .encc p =>
      if s.kv = true ∧ bufferLenOk p.length = true then
        t.cst = .chained ∧ t.cv = blockAt (encryptChained s.rk p s.cv).1 (p.length / 16 - 1)
      else t.cst = s.cst ∧ t.cv = s.cv
    | .decc p =>
      if s.kv = true ∧ bufferLenOk p.length = true then t.cst = .chained ∧ t.cv = blockAt p (p.length / 16 - 1)
      else t.cst = s.cst ∧ t.cv = s.cv
    | .keyexp _ => t.cst = s.cst ∧ t.cv = s.cv
    | .encb _ => t.cst = s.cst ∧ t.cv = s.cv
    | .decb _ => t.cst = s.cst ∧ t.cv = s.cv
    | .ence _ => t.cst = s.cst ∧ t.cv = s.cv
    | .dece _ => t.cst = s.cst ∧ t.cv = s.cv
    | .rdiv _ => t.cst = s.cst ∧ t.cv = s.cv
    | .rdst _ => t.cst = s.cst ∧ t.cv = s.cv

/-- R13, R168: the schedule cannot be read back. A command that is no transform, or that fails, answers the same and leaves the
same registers whatever `RK` holds, but for `RK` itself. -/
def Obligations.ScheduleIsNotReadBack : Prop :=
  ∀ (i : Instr) (s : State) (rk : Schedule),
    (i.opcode.needsKey = false ∨ commandStatus i.opcode i.len s.kv ≠ .ok) →
    ∃ t u, exec i s = .next t ∧ exec i { s with rk := rk } = .next u ∧ { u with rk := t.rk } = t ∧
      (u.rk = t.rk ∨ (t.rk = s.rk ∧ u.rk = rk))

/-- R38: repeating any command but ENCC and DECC gives the same response and leaves the same registers. -/
def Obligations.RepeatedCommandsAreIdempotent : Prop :=
  ∀ (i : Instr) (s t : State), i.opcode ≠ .encc → i.opcode ≠ .decc → exec i s = .next t →
    ∃ u frame, exec i t = .next u ∧ SameRegisters t u ∧
      t.responses = s.responses ++ [frame] ∧ u.responses = t.responses ++ [frame]

/-- R62: the pseudo-commands return what the cipher functions of the same names return, and report the first failing
command. Their form is the model's, log entry 10. -/
def Obligations.PseudoCommandResults : Prop :=
  ∀ (s : State) (b buf iv : List Byte), b.length = 16 → iv.length = 16 →
    ((runPseudo (.newCipher b) s).1 = .success [] ∧ (runPseudo (.newCipher b) s).2.kv = true) ∧
    (runPseudo .defaultIV s).1 = .success [Config.defaultIV.bytes] ∧
    (s.kv = true →
      (runPseudo (.encryptBlock b) s).1 = .success [(encryptBlock s.rk (Block.ofBytes b)).bytes] ∧
      (runPseudo (.decryptBlock b) s).1 = .success [(decryptBlock s.rk (Block.ofBytes b)).bytes] ∧
      (bufferLenOk buf.length = true →
        (runPseudo (.encryptChained buf iv) s).1 = .success
          [(encryptChained s.rk buf (Block.ofBytes iv)).1, (encryptChained s.rk buf (Block.ofBytes iv)).2.bytes] ∧
        (runPseudo (.decryptChained buf iv) s).1 = .success
          [(decryptChained s.rk buf (Block.ofBytes iv)).1, (decryptChained s.rk buf (Block.ofBytes iv)).2.bytes] ∧
        (runPseudo (.encryptChainedDefault buf) s).1 = .success
          [(encryptChained s.rk buf Config.defaultIV).1, (encryptChained s.rk buf Config.defaultIV).2.bytes] ∧
        (runPseudo (.continueEncrypt buf) s).1 = .success [(encryptChained s.rk buf s.cv).1] ∧
        (runPseudo (.continueDecrypt buf) s).1 = .success [(decryptChained s.rk buf s.cv).1] ∧
        (runPseudo (.encrypt buf) s).1 = .success [encryptEcb s.rk buf] ∧
        (runPseudo (.decrypt buf) s).1 = .success [decryptEcb s.rk buf]) ∧
      (bufferLenOk buf.length = false →
        (runPseudo (.encryptChained buf iv) s).1 = .failure 0x03 ∧
        (runPseudo (.encryptChained buf iv) s).2.cv = Block.ofBytes iv)) ∧
    ∀ badIv : List Byte, badIv.length ≠ 16 →
      (runPseudo (.encryptChained buf badIv) s).1 = .failure 0x02 ∧
      (runPseudo (.encryptChained buf badIv) s).2.cv = s.cv

/-! ## Inside a command -/

/-- R196, R14, R36: the fixed operation list of a transform command, a function of its opcode and number of blocks only,
computes its response data and its chaining value from any earlier contents of `ST`, `RND` and `BLK`; and KEYEXP's list
computes the schedule. -/
def Obligations.SequencerComputesCommands : Prop :=
  ∀ (i : Instr) (s : State), commandStatus i.opcode i.len s.kv = .ok →
    (i.opcode.needsKey = true → ∃ t, exec i s = .next t ∧
      t.responses = s.responses ++
        [encodeResponse 0x00 ((s.datapath i.payload).run (microProgram i.opcode (i.len / 16))).rdata] ∧
      t.cv = ((s.datapath i.payload).run (microProgram i.opcode (i.len / 16))).cv) ∧
    (i.opcode = .keyexp → ∃ t, exec i s = .next t ∧
      t.rk = scheduleOfWords ((s.datapath i.payload).run (microProgram i.opcode (i.len / 16))).words)

/-- R22, R111, R126, R147: whatever `RND` held before and whatever the key, data and `CV` are, running a command uses the
round keys in the order 0..10 (encryption) or 10..0 (decryption), once each per block; blocks are taken in buffer order
0..n-1. -/
def Obligations.RoundKeyAndBlockOrder : Prop :=
  ∀ (d : Datapath) (n : Nat),
    d.keysUsed (microProgram .encb n) = [0, 1, 2, 3, 4, 5, 6, 7, 8, 9, 10] ∧
    d.keysUsed (microProgram .decb n) = [10, 9, 8, 7, 6, 5, 4, 3, 2, 1, 0] ∧
    (∀ op ∈ [Opcode.ence, .encc],
      d.keysUsed (microProgram op n) = (List.replicate n [0, 1, 2, 3, 4, 5, 6, 7, 8, 9, 10]).flatten) ∧
    (∀ op ∈ [Opcode.dece, .decc],
      d.keysUsed (microProgram op n) = (List.replicate n [10, 9, 8, 7, 6, 5, 4, 3, 2, 1, 0]).flatten) ∧
    ∀ op ∈ [Opcode.ence, .dece, .encc, .decc], blockOrder (microProgram op n) = List.range n

/-- R197: per block 11 round-key additions, 10 substitutions, 10 row shifts, 9 column mixes, for the chained commands one
16-byte XOR and one register update more; KEYEXP does 40 word steps. -/
def Obligations.OperationCounts : Prop :=
  (∀ n : Nat, ∀ op ∈ [Opcode.ence, .encc],
    (microProgram op n).count (.addRoundKey .rising) = 11 * n ∧ (microProgram op n).count .subBytes = 10 * n ∧
    (microProgram op n).count .shiftRows = 10 * n ∧ (microProgram op n).count .mixColumns = 9 * n) ∧
  (∀ n : Nat, ∀ op ∈ [Opcode.dece, .decc],
    (microProgram op n).count (.addRoundKey .falling) = 11 * n ∧ (microProgram op n).count .invSubBytes = 10 * n ∧
    (microProgram op n).count .invShiftRows = 10 * n ∧ (microProgram op n).count .invMixColumns = 9 * n) ∧
  (∀ n : Nat, (microProgram .encc n).count .xorCv = n ∧ (microProgram .encc n).count .latchCvFromState = n ∧
    (microProgram .decc n).count .xorCv = n ∧ (microProgram .decc n).count .latchCvFromPayload = n) ∧
  ∀ n : Nat, ((microProgram .keyexp n).filter fun
    | .expandWord _ => true
    | _ => false).length = 40

/-- R22: `RND` is the index of the round key the block transform in hand uses next. Loading a block sets it to the first key
of the order, 0 or 10; from then on, before and between all operations of the transform, it is the number of keys already
used (encryption), or 10 less that number (decryption). Three parts are the model's reading, DEDUCED in log entry 8: that
loading a block sets `RND`; that in an inverse round `RND` has moved on before `InvMixColumns`, where the loop variable of
R126 still names the key just used; and that it stays at 10 or 0 after the last key. -/
def Obligations.RoundCounterIsNextKey : Prop :=
  ∀ (d : Datapath) (i k : Nat),
    (∀ load ∈ [MicroOp.loadSingle .rising, .loadBlock i .rising],
      (d.run (load :: encryptOps.take k)).rnd.val = min 10 ((encryptOps.take k).count (.addRoundKey .rising))) ∧
    ∀ load ∈ [MicroOp.loadSingle .falling, .loadBlock i .falling],
      (d.run (load :: decryptOps.take k)).rnd.val = 10 - (decryptOps.take k).count (.addRoundKey .falling)
end

