-- ==== Sys2Proof/Laws/Bytes.lean ====
section
/-! SUPPORT. Bytes, words, blocks and buffers: indexing and building agree, exclusive-or is a group of exponent two, cutting a
buffer into blocks and joining them agree, big-endian lengths read back. -/

namespace Sys2Proof

/-! ## Exclusive-or -/

@[simp] theorem Word.xor_self (a : Word) : a.xor a = Word.zero := by
  ext1 <;> simp [Word.xor, Word.zero]

@[simp] theorem Word.xor_zero (a : Word) : a.xor Word.zero = a := by
  ext1 <;> simp [Word.xor, Word.zero]

theorem Word.xor_comm (a b : Word) : a.xor b = b.xor a := by
  ext1 <;> simp [Word.xor, BitVec.xor_comm]

theorem Word.xor_assoc (a b c : Word) : (a.xor b).xor c = a.xor (b.xor c) := by
  ext1 <;> simp [Word.xor, BitVec.xor_assoc]

@[simp] theorem Block.xor_self (a : Block) : a.xor a = Block.zero := by
  ext1 <;> simp [Block.xor, Block.zero]

@[simp] theorem Block.xor_zero (a : Block) : a.xor Block.zero = a := by
  ext1 <;> simp [Block.xor, Block.zero]

theorem Block.xor_comm (a b : Block) : a.xor b = b.xor a := by
  ext1 <;> simp [Block.xor, Word.xor_comm]

theorem Block.xor_assoc (a b c : Block) : (a.xor b).xor c = a.xor (b.xor c) := by
  ext1 <;> simp [Block.xor, Word.xor_assoc]

@[simp] theorem Block.xor_xor_self (a b : Block) : (a.xor b).xor b = a := by
  rw [Block.xor_assoc, Block.xor_self, Block.xor_zero]

/-! ## Indexing -/

@[simp] theorem Block.get_ofFn (f : Fin 16 → Byte) (n : Fin 16) : (Block.ofFn f).get n = f n := by
  fin_cases n <;> rfl

@[simp] theorem Block.ofFn_get (b : Block) : Block.ofFn b.get = b := rfl

/-- Two blocks with the same sixteen bytes are the same block. -/
theorem Block.ext_get {a b : Block} (h : ∀ n, a.get n = b.get n) : a = b := by
  rw [← Block.ofFn_get a, ← Block.ofFn_get b, funext h]

@[simp] theorem Block.get_mapBytes (f : Byte → Byte) (b : Block) (n : Fin 16) : (b.mapBytes f).get n = f (b.get n) := by
  simp [Block.mapBytes]

@[simp] theorem Block.get_xor (a b : Block) (n : Fin 16) : (a.xor b).get n = a.get n ^^^ b.get n := by
  fin_cases n <;> rfl

@[simp] theorem Block.bytes_length (b : Block) : b.bytes.length = 16 := rfl

@[simp] theorem Block.ofBytes_bytes (b : Block) : Block.ofBytes b.bytes = b := rfl

/-- A sequence of 16 bytes survives the block-to-state mapping and back (R31). -/
theorem Block.bytes_ofBytes {l : List Byte} (h : l.length = 16) : (Block.ofBytes l).bytes = l := by
  match l, h with
  | [_, _, _, _, _, _, _, _, _, _, _, _, _, _, _, _], _ => rfl

/-! ## Buffers -/

@[simp] theorem blocks_nil : blocks [] = [] := rfl

@[simp] theorem joinBlocks_nil : joinBlocks [] = [] := rfl

@[simp] theorem joinBlocks_cons (b : Block) (bs : List Block) : joinBlocks (b :: bs) = b.bytes ++ joinBlocks bs := rfl

theorem joinBlocks_append (as bs : List Block) : joinBlocks (as ++ bs) = joinBlocks as ++ joinBlocks bs := by
  simp [joinBlocks]

@[simp] theorem joinBlocks_length (bs : List Block) : (joinBlocks bs).length = 16 * bs.length := by
  induction bs with
  | nil => rfl
  | cons b bs ih => simp [ih]; omega

@[simp] theorem blocks_length (buf : List Byte) : (blocks buf).length = buf.length / 16 := by simp [blocks]

/-- Block `i + 1` behind a block is block `i` of the rest. -/
theorem blockAt_bytes_append_succ (b : Block) (rest : List Byte) (i : Nat) :
    blockAt (b.bytes ++ rest) (i + 1) = blockAt rest i := by
  have h : 16 * (i + 1) = b.bytes.length + 16 * i := by rw [Block.bytes_length]; omega
  simp only [blockAt, memRead, h, List.drop_append, Nat.add_sub_cancel_left,
    List.drop_eq_nil_of_le (Nat.le_add_right _ _), List.nil_append]

theorem blockAt_bytes_append_zero (b : Block) (rest : List Byte) : blockAt (b.bytes ++ rest) 0 = b := by
  rfl

/-- A block at the front of a buffer is the first of its blocks, and the rest are the rest's. -/
theorem blocks_bytes_append (b : Block) (rest : List Byte) : blocks (b.bytes ++ rest) = b :: blocks rest := by
  have hlen : (b.bytes ++ rest).length / 16 = rest.length / 16 + 1 := by
    rw [List.length_append, Block.bytes_length]; omega
  rw [blocks, hlen, List.range_succ_eq_map, List.map_cons, List.map_map, blockAt_bytes_append_zero]
  exact congrArg _ (List.map_congr_left fun i _ => blockAt_bytes_append_succ b rest i)

/-- Joining blocks and cutting the buffer again gives the blocks (R136). -/
@[simp] theorem blocks_joinBlocks (bs : List Block) : blocks (joinBlocks bs) = bs := by
  induction bs with
  | nil => rfl
  | cons b bs ih => rw [joinBlocks_cons, blocks_bytes_append, ih]

/-- Every buffer whose length is a multiple of 16 is the join of its blocks (R136). -/
theorem joinBlocks_blocks {buf : List Byte} (h : buf.length % 16 = 0) : joinBlocks (blocks buf) = buf := by
  obtain ⟨n, hn⟩ : ∃ n, buf.length = 16 * n := ⟨buf.length / 16, by omega⟩
  clear h
  induction n generalizing buf with
  | zero => rw [List.eq_nil_of_length_eq_zero hn]; rfl
  | succ n ih =>
    have htake : (buf.take 16).length = 16 := by simp; omega
    have hsplit : buf = (Block.ofBytes (buf.take 16)).bytes ++ buf.drop 16 := by
      rw [Block.bytes_ofBytes htake, List.take_append_drop]
    rw [hsplit, blocks_bytes_append, joinBlocks_cons, ih (by simp; omega)]

/-- Two block-aligned buffers, one after the other, have the blocks of the first, then those of the second. -/
theorem blocks_append {a b : List Byte} (ha : a.length % 16 = 0) (hb : b.length % 16 = 0) :
    blocks (a ++ b) = blocks a ++ blocks b := by
  rw [← joinBlocks_blocks ha, ← joinBlocks_blocks hb, ← joinBlocks_append]
  simp

/-! ## The multi-block functions keep the length (R36, R136) -/

@[simp] theorem cbcEncrypt_length (rk : Schedule) (bs : List Block) (cv : Block) :
    (cbcEncrypt rk bs cv).1.length = bs.length := by
  induction bs generalizing cv with
  | nil => rfl
  | cons b bs ih => simp [cbcEncrypt, ih]

@[simp] theorem cbcDecrypt_length (rk : Schedule) (bs : List Block) (cv : Block) :
    (cbcDecrypt rk bs cv).1.length = bs.length := by
  induction bs generalizing cv with
  | nil => rfl
  | cons b bs ih => simp [cbcDecrypt, ih]

theorem encryptEcb_length (rk : Schedule) {buf : List Byte} (h : buf.length % 16 = 0) :
    (encryptEcb rk buf).length = buf.length := by
  simp [encryptEcb]; omega

theorem decryptEcb_length (rk : Schedule) {buf : List Byte} (h : buf.length % 16 = 0) :
    (decryptEcb rk buf).length = buf.length := by
  simp [decryptEcb]; omega

theorem encryptChained_length (rk : Schedule) (iv : Block) {buf : List Byte} (h : buf.length % 16 = 0) :
    (encryptChained rk buf iv).1.length = buf.length := by
  simp [encryptChained]; omega

theorem decryptChained_length (rk : Schedule) (iv : Block) {buf : List Byte} (h : buf.length % 16 = 0) :
    (decryptChained rk buf iv).1.length = buf.length := by
  simp [decryptChained]; omega

/-! ## Lengths -/

/-- `MAX_LEN` lies within the bounds of log entry 6. -/
theorem maxLen_bounds : 48 ≤ Config.maxLen ∧ Config.maxLen ≤ 0xFFFFFFF0 := by
  have := Config.maxLenWithheld.isLt
  unfold Config.maxLen
  omega

/-- `MAX_LEN` is a multiple of 16 (R6). -/
theorem maxLen_mod : Config.maxLen % 16 = 0 := by
  unfold Config.maxLen
  omega

/-- What the length rule of the multi-block commands says (R35, R143). -/
theorem bufferLenOk_iff (len : Nat) :
    bufferLenOk len = true ↔ len ≠ 0 ∧ len % 16 = 0 ∧ len ≤ Config.maxLen := by
  simp [bufferLenOk, and_assoc]

/-- A legal buffer length fits the 32-bit `LEN` and `RLEN` fields. -/
theorem bufferLenOk_lt {len : Nat} (h : bufferLenOk len = true) : len < 2 ^ 32 := by
  have h1 := ((bufferLenOk_iff len).mp h).2.2
  have h2 := maxLen_bounds.2
  omega

end Sys2Proof
end

