-- ==== Sys2Proof/Laws/State.lean ====
section
/-! SUPPORT. One lemma per field per update of State: what each shared operation of Machine/Ops.lean and Machine/Fetch.lean
leaves in each field, so that no later proof unfolds a record update. -/

namespace Sys2Proof.Machine

/-- Two states with the same fields are the same state. -/
theorem State.ext_fields {s t : State} (kv : s.kv = t.kv) (rk : s.rk = t.rk) (cv : s.cv = t.cv) (cst : s.cst = t.cst)
    (err : s.err = t.err) (st : s.st = t.st) (rnd : s.rnd = t.rnd) (blk : s.blk = t.blk)
    (hostEvents : s.hostEvents = t.hostEvents) (responses : s.responses = t.responses) (draws : s.draws = t.draws) :
    s = t := by
  cases s; cases t; simp_all

/-! ## `State.respond` -/

@[simp] theorem State.respond_kv (s : State) (sts : Status) (rdata : List Byte) : (s.respond sts rdata).kv = s.kv := rfl
@[simp] theorem State.respond_rk (s : State) (sts : Status) (rdata : List Byte) : (s.respond sts rdata).rk = s.rk := rfl
@[simp] theorem State.respond_cv (s : State) (sts : Status) (rdata : List Byte) : (s.respond sts rdata).cv = s.cv := rfl
@[simp] theorem State.respond_cst (s : State) (sts : Status) (rdata : List Byte) : (s.respond sts rdata).cst = s.cst := rfl
@[simp] theorem State.respond_err (s : State) (sts : Status) (rdata : List Byte) : (s.respond sts rdata).err = s.err := rfl
@[simp] theorem State.respond_st (s : State) (sts : Status) (rdata : List Byte) : (s.respond sts rdata).st = s.st := rfl
@[simp] theorem State.respond_rnd (s : State) (sts : Status) (rdata : List Byte) : (s.respond sts rdata).rnd = s.rnd := rfl
@[simp] theorem State.respond_blk (s : State) (sts : Status) (rdata : List Byte) : (s.respond sts rdata).blk = s.blk := rfl
@[simp] theorem State.respond_hostEvents (s : State) (sts : Status) (rdata : List Byte) : (s.respond sts rdata).hostEvents = s.hostEvents := rfl
@[simp] theorem State.respond_responses (s : State) (sts : Status) (rdata : List Byte) : (s.respond sts rdata).responses = s.responses ++ [encodeResponse sts.code rdata] := rfl
@[simp] theorem State.respond_draws (s : State) (sts : Status) (rdata : List Byte) : (s.respond sts rdata).draws = s.draws := rfl

/-! ## `State.raise` -/

@[simp] theorem State.raise_kv (s : State) (e : Status) : (s.raise e).kv = s.kv := rfl
@[simp] theorem State.raise_rk (s : State) (e : Status) : (s.raise e).rk = s.rk := rfl
@[simp] theorem State.raise_cv (s : State) (e : Status) : (s.raise e).cv = s.cv := rfl
@[simp] theorem State.raise_cst (s : State) (e : Status) : (s.raise e).cst = s.cst := rfl
@[simp] theorem State.raise_err (s : State) (e : Status) : (s.raise e).err = e.code := rfl
@[simp] theorem State.raise_st (s : State) (e : Status) : (s.raise e).st = s.st := rfl
@[simp] theorem State.raise_rnd (s : State) (e : Status) : (s.raise e).rnd = s.rnd := rfl
@[simp] theorem State.raise_blk (s : State) (e : Status) : (s.raise e).blk = s.blk := rfl
@[simp] theorem State.raise_hostEvents (s : State) (e : Status) : (s.raise e).hostEvents = s.hostEvents := rfl
@[simp] theorem State.raise_responses (s : State) (e : Status) : (s.raise e).responses = s.responses ++ [encodeResponse e.code []] := rfl
@[simp] theorem State.raise_draws (s : State) (e : Status) : (s.raise e).draws = s.draws := rfl

/-! ## `State.finish` -/

@[simp] theorem State.finish_kv (s : State) (rdata : List Byte) : (s.finish rdata).kv = s.kv := rfl
@[simp] theorem State.finish_rk (s : State) (rdata : List Byte) : (s.finish rdata).rk = s.rk := rfl
@[simp] theorem State.finish_cv (s : State) (rdata : List Byte) : (s.finish rdata).cv = s.cv := rfl
@[simp] theorem State.finish_cst (s : State) (rdata : List Byte) : (s.finish rdata).cst = s.cst := rfl
@[simp] theorem State.finish_err (s : State) (rdata : List Byte) : (s.finish rdata).err = 0x00 := rfl
@[simp] theorem State.finish_st (s : State) (rdata : List Byte) : (s.finish rdata).st = s.st := rfl
@[simp] theorem State.finish_rnd (s : State) (rdata : List Byte) : (s.finish rdata).rnd = s.rnd := rfl
@[simp] theorem State.finish_blk (s : State) (rdata : List Byte) : (s.finish rdata).blk = s.blk := rfl
@[simp] theorem State.finish_hostEvents (s : State) (rdata : List Byte) : (s.finish rdata).hostEvents = s.hostEvents := rfl
@[simp] theorem State.finish_responses (s : State) (rdata : List Byte) : (s.finish rdata).responses = s.responses ++ [encodeResponse 0x00 rdata] := rfl
@[simp] theorem State.finish_draws (s : State) (rdata : List Byte) : (s.finish rdata).draws = s.draws := rfl

/-! ## `State.releaseRound` -/

@[simp] theorem State.releaseRound_kv (s : State) : (s.releaseRound).kv = s.kv := rfl
@[simp] theorem State.releaseRound_rk (s : State) : (s.releaseRound).rk = s.rk := rfl
@[simp] theorem State.releaseRound_cv (s : State) : (s.releaseRound).cv = s.cv := rfl
@[simp] theorem State.releaseRound_cst (s : State) : (s.releaseRound).cst = s.cst := rfl
@[simp] theorem State.releaseRound_err (s : State) : (s.releaseRound).err = s.err := rfl
@[simp] theorem State.releaseRound_st (s : State) : (s.releaseRound).st = Config.freeSt s.draws := rfl
@[simp] theorem State.releaseRound_rnd (s : State) : (s.releaseRound).rnd = Config.freeRnd s.draws := rfl
@[simp] theorem State.releaseRound_blk (s : State) : (s.releaseRound).blk = s.blk := rfl
@[simp] theorem State.releaseRound_hostEvents (s : State) : (s.releaseRound).hostEvents = s.hostEvents := rfl
@[simp] theorem State.releaseRound_responses (s : State) : (s.releaseRound).responses = s.responses := rfl
@[simp] theorem State.releaseRound_draws (s : State) : (s.releaseRound).draws = s.draws + 1 := rfl

/-! ## `State.releaseBuffer` -/

@[simp] theorem State.releaseBuffer_kv (s : State) : (s.releaseBuffer).kv = s.kv := rfl
@[simp] theorem State.releaseBuffer_rk (s : State) : (s.releaseBuffer).rk = s.rk := rfl
@[simp] theorem State.releaseBuffer_cv (s : State) : (s.releaseBuffer).cv = s.cv := rfl
@[simp] theorem State.releaseBuffer_cst (s : State) : (s.releaseBuffer).cst = s.cst := rfl
@[simp] theorem State.releaseBuffer_err (s : State) : (s.releaseBuffer).err = s.err := rfl
@[simp] theorem State.releaseBuffer_st (s : State) : (s.releaseBuffer).st = Config.freeSt s.draws := rfl
@[simp] theorem State.releaseBuffer_rnd (s : State) : (s.releaseBuffer).rnd = Config.freeRnd s.draws := rfl
@[simp] theorem State.releaseBuffer_blk (s : State) : (s.releaseBuffer).blk = Config.freeBlk s.draws := rfl
@[simp] theorem State.releaseBuffer_hostEvents (s : State) : (s.releaseBuffer).hostEvents = s.hostEvents := rfl
@[simp] theorem State.releaseBuffer_responses (s : State) : (s.releaseBuffer).responses = s.responses := rfl
@[simp] theorem State.releaseBuffer_draws (s : State) : (s.releaseBuffer).draws = s.draws + 1 := rfl

/-! ## `State.applyReset` -/

@[simp] theorem State.applyReset_kv (s : State) : (s.applyReset).kv = false := rfl
@[simp] theorem State.applyReset_rk (s : State) : (s.applyReset).rk = Config.freeRk s.draws := rfl
@[simp] theorem State.applyReset_cv (s : State) : (s.applyReset).cv = Config.defaultIV := rfl
@[simp] theorem State.applyReset_cst (s : State) : (s.applyReset).cst = .awaitingFirst := rfl
@[simp] theorem State.applyReset_err (s : State) : (s.applyReset).err = 0x00 := rfl
@[simp] theorem State.applyReset_st (s : State) : (s.applyReset).st = Config.freeSt s.draws := rfl
@[simp] theorem State.applyReset_rnd (s : State) : (s.applyReset).rnd = Config.freeRnd s.draws := rfl
@[simp] theorem State.applyReset_blk (s : State) : (s.applyReset).blk = Config.freeBlk s.draws := rfl
@[simp] theorem State.applyReset_hostEvents (s : State) : (s.applyReset).hostEvents = s.hostEvents := rfl
@[simp] theorem State.applyReset_responses (s : State) : (s.applyReset).responses = s.responses := rfl
@[simp] theorem State.applyReset_draws (s : State) : (s.applyReset).draws = s.draws + 1 := rfl

/-! ## `State.sendFirst` -/

@[simp] theorem State.sendFirst_kv (s : State) (bytes : List Byte) : (s.sendFirst bytes).kv = s.kv := rfl
@[simp] theorem State.sendFirst_rk (s : State) (bytes : List Byte) : (s.sendFirst bytes).rk = s.rk := rfl
@[simp] theorem State.sendFirst_cv (s : State) (bytes : List Byte) : (s.sendFirst bytes).cv = s.cv := rfl
@[simp] theorem State.sendFirst_cst (s : State) (bytes : List Byte) : (s.sendFirst bytes).cst = s.cst := rfl
@[simp] theorem State.sendFirst_err (s : State) (bytes : List Byte) : (s.sendFirst bytes).err = s.err := rfl
@[simp] theorem State.sendFirst_st (s : State) (bytes : List Byte) : (s.sendFirst bytes).st = s.st := rfl
@[simp] theorem State.sendFirst_rnd (s : State) (bytes : List Byte) : (s.sendFirst bytes).rnd = s.rnd := rfl
@[simp] theorem State.sendFirst_blk (s : State) (bytes : List Byte) : (s.sendFirst bytes).blk = s.blk := rfl
@[simp] theorem State.sendFirst_hostEvents (s : State) (bytes : List Byte) : (s.sendFirst bytes).hostEvents = .frame bytes :: s.hostEvents := rfl
@[simp] theorem State.sendFirst_responses (s : State) (bytes : List Byte) : (s.sendFirst bytes).responses = s.responses := rfl
@[simp] theorem State.sendFirst_draws (s : State) (bytes : List Byte) : (s.sendFirst bytes).draws = s.draws := rfl

end Sys2Proof.Machine
end

