-- ==== Sys2Proof/Laws/Commands.lean ====
section
/-! SUPPORT. Everything one command can do, once per family: an error entry (R170) or the command's own effect. A proof about
`exec` cites the lemma of its family instead of unfolding the meanings. -/

namespace Sys2Proof.Machine

/-! ## Where the checks pass -/

theorem execEncb_of_ok {p : List Byte} {s : State} (hk : s.kv = true) (hp : p.length = 16) :
    execEncb p s = .next (s.releaseRound.finish (encryptBlock s.rk (Block.ofBytes p)).bytes) := by
  simp [execEncb, hk, hp]

theorem execDecb_of_ok {p : List Byte} {s : State} (hk : s.kv = true) (hp : p.length = 16) :
    execDecb p s = .next (s.releaseRound.finish (decryptBlock s.rk (Block.ofBytes p)).bytes) := by
  simp [execDecb, hk, hp]

theorem execEnce_of_ok {p : List Byte} {s : State} (hk : s.kv = true) (hp : bufferLenOk p.length = true) :
    execEnce p s = .next (s.releaseBuffer.finish (encryptEcb s.rk p)) := by
  simp [execEnce, hk, hp]

theorem execDece_of_ok {p : List Byte} {s : State} (hk : s.kv = true) (hp : bufferLenOk p.length = true) :
    execDece p s = .next (s.releaseBuffer.finish (decryptEcb s.rk p)) := by
  simp [execDece, hk, hp]

theorem execEncc_of_ok {p : List Byte} {s : State} (hk : s.kv = true) (hp : bufferLenOk p.length = true) :
    execEncc p s = .next
      (State.finish { s.releaseBuffer with cv := (encryptChained s.rk p s.cv).2, cst := .chained }
        (encryptChained s.rk p s.cv).1) := by
  simp [execEncc, hk, hp]

theorem execDecc_of_ok {p : List Byte} {s : State} (hk : s.kv = true) (hp : bufferLenOk p.length = true) :
    execDecc p s = .next
      (State.finish { s.releaseBuffer with cv := (decryptChained s.rk p s.cv).2, cst := .chained }
        (decryptChained s.rk p s.cv).1) := by
  simp [execDecc, hk, hp]

/-! ## Everything a command can do -/

/-- Everything a KEYEXP can do (R99, R100). -/
theorem execKeyexp_cases {p : List Byte} {s t : State} (h : execKeyexp p s = .next t) :
    (p.length ≠ 16 ∧ t = s.raise .invalidKeySize) ∨
    (p.length = 16 ∧
      t = State.finish { s with rk := keyExpand (Block.ofBytes p), kv := true } []) := by
  unfold execKeyexp at h
  split at h <;> cases h
  · exact .inl ⟨‹_›, rfl⟩
  · exact .inr ⟨by simpa using ‹¬ p.length ≠ 16›, rfl⟩

/-- Everything a single-block transform (ENCB, DECB) can do (R113, R128); `f` is the block function. -/
theorem execBlock_cases {f : Schedule → Block → Block} {p : List Byte} {s t : State}
    (h : (if s.kv = false then Host.Outcome.next (s.raise .noKey)
      else if p.length ≠ 16 then .next (s.raise .invalidBlockSize)
      else .next (s.releaseRound.finish (f s.rk (Block.ofBytes p)).bytes) : Host.Outcome State Fault Refusal) = .next t) :
    (s.kv = false ∧ t = s.raise .noKey) ∨
    (s.kv = true ∧ p.length ≠ 16 ∧ t = s.raise .invalidBlockSize) ∨
    (s.kv = true ∧ p.length = 16 ∧ t = s.releaseRound.finish (f s.rk (Block.ofBytes p)).bytes) := by
  split at h
  · cases h; exact .inl ⟨‹_›, rfl⟩
  · have hk : s.kv = true := by simpa using ‹¬ s.kv = false›
    split at h <;> cases h
    · exact .inr (.inl ⟨hk, ‹_›, rfl⟩)
    · exact .inr (.inr ⟨hk, by simpa using ‹¬ p.length ≠ 16›, rfl⟩)

/-- Everything a multi-block transform (ENCE, DECE, ENCC, DECC) can do (R141 to R145); `u` is the state it leaves. -/
theorem execBuffer_cases {p : List Byte} {s t u : State}
    (h : (if s.kv = false then Host.Outcome.next (s.raise .noKey)
      else if bufferLenOk p.length = false then .next (s.raise .invalidLength)
      else .next u : Host.Outcome State Fault Refusal) = .next t) :
    (s.kv = false ∧ t = s.raise .noKey) ∨
    (s.kv = true ∧ bufferLenOk p.length = false ∧ t = s.raise .invalidLength) ∨
    (s.kv = true ∧ bufferLenOk p.length = true ∧ t = u) := by
  split at h
  · cases h; exact .inl ⟨‹_›, rfl⟩
  · have hk : s.kv = true := by simpa using ‹¬ s.kv = false›
    split at h <;> cases h
    · exact .inr (.inl ⟨hk, ‹_›, rfl⟩)
    · exact .inr (.inr ⟨hk, by simpa using ‹¬ bufferLenOk p.length = false›, rfl⟩)

/-- Everything an LDIV can do (R156, R157). -/
theorem execLdiv_cases {p : List Byte} {s t : State} (h : execLdiv p s = .next t) :
    (p.length ≠ 16 ∧ t = s.raise .invalidBlockSize) ∨
    (p.length = 16 ∧
      t = State.finish { s with cv := Block.ofBytes p, cst := .awaitingFirst } []) := by
  unfold execLdiv at h
  split at h <;> cases h
  · exact .inl ⟨‹_›, rfl⟩
  · exact .inr ⟨by simpa using ‹¬ p.length ≠ 16›, rfl⟩

/-- Everything a command without operand (LDIVD, RDIV, RDST) can do (R58, R158, R160, R161); `u` is the state it leaves. -/
theorem execNoOperand_cases {p : List Byte} {s t u : State}
    (h : (if p.length ≠ 0 then Host.Outcome.next (s.raise .badCommand) else .next u : Host.Outcome State Fault Refusal)
      = .next t) :
    (p ≠ [] ∧ t = s.raise .badCommand) ∨ (p = [] ∧ t = u) := by
  split at h <;> cases h
  · exact .inl ⟨by simpa [List.length_eq_zero_iff] using ‹p.length ≠ 0›, rfl⟩
  · exact .inr ⟨by simpa [List.length_eq_zero_iff] using ‹¬ p.length ≠ 0›, rfl⟩

end Sys2Proof.Machine
end

