-- ==== Sys2Proof/Laws/Frames.lean ====
section
/-! SUPPORT. Frames: big-endian lengths read back, opcodes and their bytes agree, what the decoder can answer. -/

namespace Sys2Proof

@[simp] theorem be32_length (n : Nat) : (be32 n).length = 4 := rfl

/-- The four bytes of `be32(n)` read back as `n` (R33, R51). -/
theorem be32Value_be32 {n : Nat} (h : n < 2 ^ 32) :
    be32Value (BitVec.ofNat 8 (n / 2 ^ 24)) (BitVec.ofNat 8 (n / 2 ^ 16)) (BitVec.ofNat 8 (n / 2 ^ 8))
      (BitVec.ofNat 8 n) = n := by
  simp only [be32Value, BitVec.toNat_ofNat]
  omega

theorem be32Value_lt (b1 b2 b3 b4 : Byte) : be32Value b1 b2 b3 b4 < 2 ^ 32 := by
  have h1 := b1.isLt
  have h2 := b2.isLt
  have h3 := b3.isLt
  have h4 := b4.isLt
  unfold be32Value
  omega

@[simp] theorem Opcode.ofByte_byte (op : Opcode) : Opcode.ofByte op.byte = some op := by cases op <;> rfl

/-- The opcode map answers an opcode for its own byte only (R55). -/
theorem Opcode.byte_of_ofByte : ∀ {b : Byte} {op : Opcode}, Opcode.ofByte b = some op → op.byte = b := by
  decide +kernel

@[simp] theorem Opcode.opcode_instr (op : Opcode) (p : List Byte) : (op.instr p).opcode = op := by cases op <;> rfl

@[simp] theorem Opcode.payload_instr (op : Opcode) (p : List Byte) : (op.instr p).payload = p := by cases op <;> rfl

@[simp] theorem Instr.instr_opcode (i : Instr) : i.opcode.instr i.payload = i := by cases i <;> rfl

@[simp] theorem encode_length (i : Instr) : (encode i).length = 5 + i.len := by
  simp [encode, Instr.len]
  omega

@[simp] theorem encodeResponse_length (sts : Byte) (rdata : List Byte) :
    (encodeResponse sts rdata).length = 5 + rdata.length := by
  simp [encodeResponse]
  omega

/-- The response frame of a command without data (R53): `RLEN` is 0. -/
@[simp] theorem encodeResponse_nil (sts : Byte) : encodeResponse sts [] = [sts, 0, 0, 0, 0] := rfl

/-- The response frame of two bytes of data (R53, R54): `RLEN` is 2. -/
theorem encodeResponse_pair (sts b0 b1 : Byte) : encodeResponse sts [b0, b1] = [sts, 0, 0, 0, 2, b0, b1] := by
  simp [encodeResponse, be32]

/-- The response frame of one block of data (R53, R54): `RLEN` is 16. -/
theorem encodeResponse_block (sts : Byte) (b : Block) :
    encodeResponse sts b.bytes = [sts, 0, 0, 0, 0x10] ++ b.bytes := by
  rw [encodeResponse, Block.bytes_length]
  rfl

/-- The decoder on five header bytes and a payload (R56). -/
theorem decode_cons (opc l1 l2 l3 l4 : Byte) (payload : List Byte) :
    decode (opc :: l1 :: l2 :: l3 :: l4 :: payload) =
      if payload.length = be32Value l1 l2 l3 l4 then
        match Opcode.ofByte opc with
        | some op => .command (op.instr payload)
        | none => .reserved opc
      else .malformed := rfl

end Sys2Proof

namespace Sys2Proof.Machine

/-- Everything one frame can do (R56, R57, R191): the decoded command runs, a reserved opcode is answered with `BadCommand`, or
the bytes are no frame and the run has no meaning. -/
theorem runFrame_cases (bytes : List Byte) (s : State) :
    (∃ i, decode bytes = .command i ∧ runFrame bytes s = exec i s) ∨
    (∃ opc, decode bytes = .reserved opc ∧ runFrame bytes s = .next (s.raise .badCommand)) ∨
    (decode bytes = .malformed ∧ runFrame bytes s = .refused .malformedFrame) := by
  unfold runFrame
  cases h : decode bytes with
  | command i => exact .inl ⟨i, rfl, rfl⟩
  | reserved opc => exact .inr (.inl ⟨opc, rfl, rfl⟩)
  | malformed => exact .inr (.inr ⟨rfl, rfl⟩)

/-- Everything taking an event can do: idle, one frame, or reset. -/
theorem takeEvent_cases (s : State) :
    (s.hostEvents = [] ∧ takeEvent s = .next s) ∨
    (∃ bytes rest, s.hostEvents = .frame bytes :: rest ∧
      takeEvent s = runFrame bytes { s with hostEvents := rest }) ∨
    (∃ e rest, s.hostEvents = e :: rest ∧ (e = .reset ∨ ∃ bytes, e = .frameCutByReset bytes) ∧
      takeEvent s = .next ({ s with hostEvents := rest } : State).applyReset) := by
  unfold takeEvent
  cases h : s.hostEvents with
  | nil => exact .inl ⟨rfl, rfl⟩
  | cons e rest =>
    cases e with
    | frame bytes => exact .inr (.inl ⟨bytes, rest, rfl, rfl⟩)
    | reset => exact .inr (.inr ⟨_, rest, rfl, .inl rfl, rfl⟩)
    | frameCutByReset bytes => exact .inr (.inr ⟨_, rest, rfl, .inr ⟨bytes, rfl⟩, rfl⟩)

end Sys2Proof.Machine
end

