-- ==== Sys2Proof/Laws/PerInstr.lean ====
section
/-! SUPPORT. Statements made per instruction: the header of a command's frame (R51, R55). -/

namespace Sys2Proof.Laws.FrameHeader

/-- The frame of a command is `5 + LEN` bytes, starts with its opcode byte, and ends with its payload. -/
def Statement (i : Instr) : Prop :=
  (encode i).length = 5 + i.len ∧ (encode i).head? = some i.opcode.byte ∧ (encode i).drop 5 = i.payload

theorem keyexp (p : List Byte) : Statement (.keyexp p) := ⟨encode_length _, rfl, rfl⟩
theorem encb (p : List Byte) : Statement (.encb p) := ⟨encode_length _, rfl, rfl⟩
theorem decb (p : List Byte) : Statement (.decb p) := ⟨encode_length _, rfl, rfl⟩
theorem ence (p : List Byte) : Statement (.ence p) := ⟨encode_length _, rfl, rfl⟩
theorem dece (p : List Byte) : Statement (.dece p) := ⟨encode_length _, rfl, rfl⟩
theorem encc (p : List Byte) : Statement (.encc p) := ⟨encode_length _, rfl, rfl⟩
theorem decc (p : List Byte) : Statement (.decc p) := ⟨encode_length _, rfl, rfl⟩
theorem ldiv (p : List Byte) : Statement (.ldiv p) := ⟨encode_length _, rfl, rfl⟩
theorem ldivd (p : List Byte) : Statement (.ldivd p) := ⟨encode_length _, rfl, rfl⟩
theorem rdiv (p : List Byte) : Statement (.rdiv p) := ⟨encode_length _, rfl, rfl⟩
theorem rdst (p : List Byte) : Statement (.rdst p) := ⟨encode_length _, rfl, rfl⟩

end Sys2Proof.Laws.FrameHeader
end

