-- ==== Sys2Proof/Laws/Sequencer.lean ====
section
/-! SUPPORT. What the operations inside a command can do: running lists in sequence, the two counters, and what one block
transform does to `ST` and `RND`. -/

namespace Sys2Proof

@[simp] theorem Datapath.run_nil (d : Datapath) : d.run [] = d := rfl

@[simp] theorem Datapath.run_cons (d : Datapath) (op : MicroOp) (ops : List MicroOp) :
    d.run (op :: ops) = (d.apply op).run ops := rfl

theorem Datapath.run_append (d : Datapath) (xs ys : List MicroOp) : d.run (xs ++ ys) = (d.run xs).run ys := by
  simp [Datapath.run]

@[simp] theorem Datapath.apply_payload (d : Datapath) (op : MicroOp) : (d.apply op).payload = d.payload := by
  cases op <;> rfl

@[simp] theorem Datapath.apply_rk (d : Datapath) (op : MicroOp) : (d.apply op).rk = d.rk := by
  cases op <;> rfl

/-- The keys a list uses, then those that what follows uses from the state the first list leaves. -/
theorem Datapath.keysUsed_append (d : Datapath) (xs ys : List MicroOp) :
    d.keysUsed (xs ++ ys) = d.keysUsed xs ++ (d.run xs).keysUsed ys := by
  induction xs generalizing d with
  | nil => rfl
  | cons op xs ih => cases op <;> simp [Datapath.keysUsed, ih]

@[simp] theorem Datapath.apply_rnd (d : Datapath) (op : MicroOp) : (d.apply op).rnd = op.rndAfter d.rnd := by
  cases op <;> rfl

/-- `RND` after a list of operations (R22). -/
theorem Datapath.run_rnd (d : Datapath) (ops : List MicroOp) :
    (d.run ops).rnd = ops.foldl (fun rnd op => op.rndAfter rnd) d.rnd := by
  induction ops generalizing d with
  | nil => rfl
  | cons op ops ih => simp [ih]

/-- From `RND = 0`, where a load puts it, `encryptOps` is `encryptBlock` and changes nothing but `ST` and `RND`. -/
theorem Datapath.run_encryptOps (d : Datapath) (h : d.rnd = 0) :
    d.run encryptOps = { d with st := encryptBlock d.rk d.st, rnd := 10 } := by
  simp only [encryptOps, encRounds, List.flatMap_cons, List.flatMap_nil, List.cons_append, List.nil_append, run_cons,
    Datapath.apply, h, encryptBlock, List.foldl_cons, List.foldl_nil]
  rfl

/-- From `RND = 10`, where a load puts it, `decryptOps` is `decryptBlock` and changes nothing but `ST` and `RND`. -/
theorem Datapath.run_decryptOps (d : Datapath) (h : d.rnd = 10) :
    d.run decryptOps = { d with st := decryptBlock d.rk d.st, rnd := 0 } := by
  simp only [decryptOps, decRounds, List.flatMap_cons, List.flatMap_nil, List.cons_append, List.nil_append, run_cons,
    Datapath.apply, h, decryptBlock, List.foldl_cons, List.foldl_nil]
  rfl

end Sys2Proof
end

