-- ==== Sys2Proof/Tests/Slice0.lean ====
section
/-! SUPPORT. The model's own tests: ill-formed terms, decoded words written out from the spec's encoding, the spec's published
values (one step each), and for every statement with hypotheses a witness that meets them. Expected values come from
spec/95_test_vectors.md, spec/96_round_traces.md and the rules named. -/

namespace Sys2Proof.Tests

open Sys2Proof.Machine

/-! ## Helpers -/

/-- `n` bytes written as one number, leftmost byte first (R7). -/
def hex (n w : Nat) : List Byte := (List.range n).map fun i => BitVec.ofNat 8 (w / 256 ^ (n - 1 - i))

/-- A block written as one number. -/
def hexBlock (w : Nat) : Block := Block.ofBytes (hex 16 w)

/-- Key A of spec/95_test_vectors.md. -/
def keyA : Block := hexBlock 0x000102030405060708090a0b0c0d0e0f

/-- Key B of spec/95_test_vectors.md. -/
def keyB : Block := hexBlock 0x2b7e151628aed2a6abf7158809cf4f3c

/-- The core after key A has been loaded and `LDIV 0^16`. -/
def keyed : State := { State.reset with kv := true, rk := keyExpand keyA, cv := Block.zero }

/-- What one field of the next state is. -/
def nextField {α : Type} (f : State → α) : Host.Outcome State Fault Refusal → Option α
  | .next t => some (f t)
  | .fault _ => none
  | .refused _ => none

/-- The responses received. -/
def answered (o : Host.Outcome State Fault Refusal) : Option (List (List Byte)) := nextField State.responses o

/-! ## Well-formedness: the one check refuses a payload of 2^32 bytes (R51) -/

theorem test_wf_refuses_long_payload : (Instr.encb (List.replicate (2 ^ 32) 0)).wf = false := by
  simp only [Instr.wf, Instr.len, Instr.payload, List.length_replicate]
  decide

theorem test_wf_accepts_wrong_operand_length : (Instr.encb [0, 1, 2]).wf = true := by decide

/-! ## Decoding (spec/30_encoding.md R51, R55, R61; spec/95_test_vectors.md 8.1, 8.3) -/

theorem test_decode_keyexp : decode (0x01 :: [0x00, 0x00, 0x00, 0x10] ++ hex 16 0x000102030405060708090a0b0c0d0e0f) =
    .command (.keyexp [0, 1, 2, 3, 4, 5, 6, 7, 8, 9, 10, 11, 12, 13, 14, 15]) := by decide +kernel

theorem test_decode_encb_example :
    decode (hex 21 0x020000001000112233445566778899aabbccddeeff) =
      .command (.encb (hex 16 0x00112233445566778899aabbccddeeff)) := by decide +kernel

theorem test_decode_decb : decode [0x03, 0, 0, 0, 1, 0xAB] = .command (.decb [0xAB]) := by decide
theorem test_decode_ence : decode [0x04, 0, 0, 0, 1, 0xAB] = .command (.ence [0xAB]) := by decide
theorem test_decode_dece : decode [0x05, 0, 0, 0, 1, 0xAB] = .command (.dece [0xAB]) := by decide
theorem test_decode_encc : decode [0x06, 0, 0, 0, 2, 0xAB, 0xCD] = .command (.encc [0xAB, 0xCD]) := by decide
theorem test_decode_decc : decode [0x07, 0, 0, 0, 1, 0xAB] = .command (.decc [0xAB]) := by decide
theorem test_decode_ldiv : decode [0x08, 0, 0, 0, 0] = .command (.ldiv []) := by decide
theorem test_decode_ldivd : decode [0x09, 0, 0, 0, 0] = .command (.ldivd []) := by decide
theorem test_decode_rdiv : decode [0x0A, 0, 0, 0, 0] = .command (.rdiv []) := by decide
theorem test_decode_rdst_with_payload : decode [0x0B, 0, 0, 0, 1, 0x00] = .command (.rdst [0x00]) := by decide
theorem test_decode_reserved :
    decode [0x00, 0, 0, 0, 0] = .reserved 0x00 ∧ decode [0x0C, 0, 0, 0, 3, 0, 0, 0] = .reserved 0x0C ∧
    decode [0xFF, 0, 0, 0, 0] = .reserved 0xFF := by decide
theorem test_decode_malformed :
    decode [] = .malformed ∧ decode [0x0B, 0, 0, 0] = .malformed ∧ decode [0x02, 0, 0, 0, 2, 0xAB] = .malformed ∧
    decode [0x02, 0, 0, 0, 1, 0xAB, 0xCD] = .malformed := by decide

/-- `LEN = 2^24 * byte1 + 2^16 * byte2 + 2^8 * byte3 + byte4` (R51). -/
theorem test_be32 : be32Value 0x01 0x02 0x03 0x04 = 16909060 ∧ be32 16909060 = [0x01, 0x02, 0x03, 0x04] := by decide

theorem test_decodeTableWord :
    decodeTableWord 8 0x01 = some (.keyexp []) ∧ decodeTableWord 8 0x0B = some (.rdst []) ∧
    decodeTableWord 8 0x00 = none ∧ decodeTableWord 48 0xAB0100000002 = some (.encb [0xAB]) := by decide +kernel

theorem test_withFetchWord_first_step :
    answered (step (State.reset.withFetchWord 8 0x02)) = some [[0x04, 0, 0, 0, 0]] ∧
    answered (step (State.reset.withFetchWord 8 0x0B)) = some [[0x00, 0, 0, 0, 2, 0x00, 0x00]] := by decide +kernel

/-! ## Fixed parameters (R5) -/

theorem test_parameters :
    Config.schedBytes = 176 ∧ Config.nw = 44 ∧ Config.nk = 4 ∧ (keyWords keyA).length = Config.nw ∧
    (keyExpand keyA).bytes.length = Config.schedBytes ∧ encRounds.length = Config.nr - 1 := by decide +kernel

/-! ## Field and tables (spec/95_test_vectors.md section 3, R78) -/

theorem test_xtime : [0x00, 0x01, 0x57, 0x7F, 0x80, 0xAE, 0xFF].map xtime = [0x00, 0x02, 0xAE, 0xFE, 0x1B, 0x47, 0xE5] := by
  decide

theorem test_gmul : gmul 0x57 0x83 = 0xC1 ∧ gmul 0x02 0x8D = 0x01 ∧ gmul 0x53 0xCA = 0x01 := by decide

theorem test_sbox_values : [0x00, 0x10, 0x53, 0x7F, 0xC9, 0xFF].map sbox = [0x63, 0xCA, 0xED, 0xD2, 0xDD, 0x16] := by
  decide

theorem test_table_sums :
    ((List.range 256).map fun n => (sbox (BitVec.ofNat 8 n)).toNat).sum = 32640 ∧
    ((List.range 256).map fun n => (invSbox (BitVec.ofNat 8 n)).toNat).sum = 32640 := by decide +kernel

/-! ## Key schedule (R91, R92, R94, R101) and round transformations (R106 to R109, R121 to R123, R115) -/

theorem test_special_step :
    rotWord ⟨0x0C, 0x0D, 0x0E, 0x0F⟩ = ⟨0x0D, 0x0E, 0x0F, 0x0C⟩ ∧
    subWord ⟨0x0D, 0x0E, 0x0F, 0x0C⟩ = ⟨0xD7, 0xAB, 0x76, 0xFE⟩ ∧
    xorRcon ⟨0xD7, 0xAB, 0x76, 0xFE⟩ 1 = ⟨0xD6, 0xAB, 0x76, 0xFE⟩ := by decide

theorem test_schedule_key_b : (keyExpand keyB).get 10 = hexBlock 0xd014f9a8c9ee2589e13f0cc8b6630ca6 := by decide +kernel

theorem test_round_one_of_trace_a :
    subBytes (hexBlock 0x00102030405060708090a0b0c0d0e0f0) = hexBlock 0x63cab7040953d051cd60e0e7ba70e18c ∧
    shiftRows (hexBlock 0x63cab7040953d051cd60e0e7ba70e18c) = hexBlock 0x6353e08c0960e104cd70b751bacad0e7 ∧
    mixColumns (hexBlock 0x6353e08c0960e104cd70b751bacad0e7) = hexBlock 0x5f72641557f5bc92f7be3b291db9f91a := by
  decide +kernel

theorem test_inverse_transformations :
    invSubBytes (hexBlock 0x637c777bf26b6fc53001672bfed7ab76) = keyA ∧
    invShiftRows keyA = hexBlock 0x000d0a0704010e0b0805020f0c090603 ∧
    invMixColumns (hexBlock 0x01000000000000000000000000000000) = hexBlock 0x0e090d0b000000000000000000000000 := by
  decide +kernel

/-! ## The commands, one step each (spec/95_test_vectors.md sections 6 to 8) -/

theorem test_keyexp :
    nextField (fun t => (t.kv, t.rk.get 1, t.rk.get 10))
      (exec (.keyexp (hex 16 0x000102030405060708090a0b0c0d0e0f)) State.reset) =
    some (true, hexBlock 0xd6aa74fdd2af72fadaa678f1d6ab76fe, hexBlock 0x13111d7fe3944a17f307a78b4d2b30c5) := by
  decide +kernel

theorem test_keyexp_17_bytes :
    nextField (fun t => (t.kv, t.err, t.responses)) (exec (.keyexp (List.replicate 17 0)) keyed) =
    some (true, 0x01, [[0x01, 0, 0, 0, 0]]) := by decide +kernel

theorem test_encb :
    answered (exec (.encb (hex 16 0x00112233445566778899aabbccddeeff)) keyed) =
    some [hex 21 0x000000001069c4e0d86a7b0430d8cdb78070b4c55a] := by decide +kernel

theorem test_encb_no_key_wins : answered (exec (.encb (List.replicate 5 0)) State.reset) = some [[0x04, 0, 0, 0, 0]] := by
  decide +kernel

theorem test_decb :
    answered (exec (.decb (hex 16 0x69c4e0d86a7b0430d8cdb78070b4c55a)) keyed) =
    some [hex 21 0x000000001000112233445566778899aabbccddeeff] := by decide +kernel

theorem test_decb_of_a_plaintext :
    answered (exec (.decb (hex 16 0x00112233445566778899aabbccddeeff)) keyed) =
    some [hex 21 0x0000000010762a5ab50929189cefdb99434790aad8] := by decide +kernel

theorem test_ence :
    answered (exec (.ence (hex 32 0x416e6420476f642063616c6c656420746865206c69676874204461792c202061)) keyed) =
    some [hex 37 0x0000000020ec0fd15bae29d3cbd694516c06c924479cd498fda40b606de8dc75c30046bb5e] := by decide +kernel

theorem test_ence_24_bytes : answered (exec (.ence (List.replicate 24 0)) keyed) = some [[0x03, 0, 0, 0, 0]] := by
  decide +kernel

theorem test_dece :
    answered (exec (.dece (hex 32 0xec0fd15bae29d3cbd694516c06c924479cd498fda40b606de8dc75c30046bb5e)) keyed) =
    some [hex 37 0x0000000020416e6420476f642063616c6c656420746865206c69676874204461792c202061] := by decide +kernel

theorem test_encc :
    nextField (fun t => (t.responses, t.cv, t.cst))
      (exec (.encc (hex 32 0x416e6420476f642063616c6c656420746865206c69676874204461792c202061)) keyed) =
    some ([hex 37 0x0000000020ec0fd15bae29d3cbd694516c06c92447ebea148b72d933da75bea01c08385f67],
      hexBlock 0xebea148b72d933da75bea01c08385f67, .chained) := by decide +kernel

theorem test_encc_40_bytes :
    nextField (fun t => (t.responses, t.cv)) (exec (.encc (List.replicate 40 0)) keyed) =
    some ([[0x03, 0, 0, 0, 0]], Block.zero) := by decide +kernel

theorem test_decc :
    nextField (fun t => (t.responses, t.cv, t.cst))
      (exec (.decc (hex 32 0xec0fd15bae29d3cbd694516c06c92447ebea148b72d933da75bea01c08385f67)) keyed) =
    some ([hex 37 0x0000000020416e6420476f642063616c6c656420746865206c69676874204461792c202061],
      hexBlock 0xebea148b72d933da75bea01c08385f67, .chained) := by decide +kernel

/-- Section 7.7: the chaining value is the payload's last block, never the plaintext. -/
theorem test_decc_from_a_chained_value :
    nextField (fun t => (t.responses, t.cv))
      (exec (.decc (hex 16 0x6865206c69676874204461792c202061))
        { keyed with cv := hexBlock 0xec0fd15bae29d3cbd694516c06c92447, cst := .chained }) =
    some ([hex 21 0x0000000010fd8c669fec1e460d7c284cd6f4233d1f], hexBlock 0x6865206c69676874204461792c202061) := by
  decide +kernel

theorem test_ldiv :
    nextField (fun t => (t.cv, t.cst, t.responses))
      (exec (.ldiv (hex 16 0xffeeddccbbaa99887766554433221100)) { keyed with cst := .chained }) =
    some (hexBlock 0xffeeddccbbaa99887766554433221100, .awaitingFirst, [[0, 0, 0, 0, 0]]) := by decide +kernel

theorem test_ldiv_32_bytes :
    nextField (fun t => (t.cv, t.err)) (exec (.ldiv (List.replicate 32 1)) keyed) = some (Block.zero, 0x02) := by
  decide +kernel

theorem test_ldivd : nextField State.cv (exec (.ldivd []) keyed) = some Config.defaultIV := rfl

theorem test_ldivd_with_payload : answered (exec (.ldivd [0]) keyed) = some [[0x05, 0, 0, 0, 0]] := by decide +kernel

theorem test_rdiv :
    nextField (fun t => (t.responses, t.err)) (exec (.rdiv []) { keyed with cv := keyA, err := 0x03 }) =
    some ([hex 21 0x0000000010000102030405060708090a0b0c0d0e0f], 0x00) := by decide +kernel

theorem test_rdst :
    nextField (fun t => (t.responses, t.err)) (exec (.rdst []) { keyed with err := 0x03 }) =
    some ([[0x00, 0, 0, 0, 2, 0x01, 0x03]], 0x03) := by decide +kernel

theorem test_rdst_with_payload :
    nextField (fun t => (t.responses, t.err)) (exec (.rdst [0]) keyed) = some ([[0x05, 0, 0, 0, 0]], 0x05) := by
  decide +kernel

theorem test_reserved_opcode_step :
    nextField (fun t => (t.responses, t.err, t.kv)) (step (keyed.sendFirst [0x80, 0, 0, 0, 0])) =
    some ([[0x05, 0, 0, 0, 0]], 0x05, true) := by decide +kernel

/-- R61's example line, with spaces between byte pairs and a comment. -/
theorem test_assemble_line :
    assembleLine ("ENCB 00112233445566778899aabbccddeeff".toList ++ [' ', ';', ' ', 'x']) =
    some (hex 21 0x020000001000112233445566778899aabbccddeeff) := by decide +kernel

/-- A response in the written form of R61. -/
theorem test_printResponse :
    printResponse .ok [0x01, 0x0c] = ['-', '>', ' ', 'O', 'K', ' ', '0', '1', '0', 'c'] := by decide

/-! ## Witnesses: for every statement with hypotheses, states and operands that meet them -/

theorem witness_ResetEffect :
    ∃ (s t : State) (rest : List HostEvent), s.hostEvents = .reset :: rest ∧
      t.hostEvents = .frameCutByReset [0x0B, 0, 0, 0, 0] :: rest :=
  ⟨{ keyed with hostEvents := [.reset] }, { keyed with hostEvents := [.frameCutByReset [0x0B, 0, 0, 0, 0]] }, [], rfl, rfl⟩

theorem witness_StepRunsDecodedCommand :
    State.reset.hostEvents = [] ∧
    (keyed.sendFirst [0x0A, 0, 0, 0, 0]).hostEvents = .frame [0x0A, 0, 0, 0, 0] :: [] ∧
    decode [0x0A, 0, 0, 0, 0] = .command (.rdiv []) ∧ decode [0x0C, 0, 0, 0, 0] = .reserved 0x0C ∧
    decode [0x0A, 0, 0, 0] = .malformed := ⟨rfl, rfl, by decide, by decide, by decide⟩

theorem witness_WithFetchWordIsRunNext : decodeTableWord 8 0x0A = some (.rdiv []) := by decide

theorem witness_DecodeEncodeRoundTrip : (Instr.encc (List.replicate 16 0xAB)).wf = true := by decide

theorem witness_EncodeDecodeRoundTrip : decode [0x08, 0, 0, 0, 2, 1, 2] = .command (.ldiv [1, 2]) := by decide

theorem witness_ReservedOpcodesAnswered :
    (∃ opc : Byte, opc = 0x00) ∧ (0x0C ≤ (0x0C : Byte).toNat) ∧ (0x0C ≤ (0xFF : Byte).toNat) ∧
    ([1, 2, 3] : List Byte).length < 2 ^ 32 := ⟨⟨_, rfl⟩, by decide, by decide, by decide⟩

theorem witness_OpcodeTableDecodes : ∃ opc : Byte, opc = 0x00 ∨ 0x0C ≤ opc.toNat := ⟨0x0C, by decide⟩

theorem witness_FrameDecodingIsTotal :
    ([0xAB] : List Byte).length = 2 ^ 24 * (0 : Byte).toNat + 2 ^ 16 * (0 : Byte).toNat + 2 ^ 8 * (0 : Byte).toNat +
      (1 : Byte).toNat ∧
    ([] : List Byte).length ≠ 2 ^ 24 * (0 : Byte).toNat + 2 ^ 16 * (0 : Byte).toNat + 2 ^ 8 * (0 : Byte).toNat +
      (1 : Byte).toNat ∧
    ([0x0B, 0, 0, 0] : List Byte).length < 5 := by decide

theorem witness_FrameStreamIsCut : ([0xAB, 0xCD] : List Byte).length < 2 ^ 32 := by decide

theorem witness_ResponseFrameReadsBack : (hex 16 1).length < 2 ^ 32 := by decide

theorem witness_BlockStateMapping : (hex 16 0x000102030405060708090a0b0c0d0e0f).length = 16 := by decide

theorem witness_FieldInverse : ∃ a b : Byte, a ≠ 0x00 ∧ gmul a b = 0x01 := ⟨0x53, 0xCA, by decide⟩

theorem witness_ConstantsAndMultipliers : ∃ i : Nat, 2 ≤ i ∧ i ≤ 10 ∧ rcon i = 0x36 := ⟨10, by decide⟩

theorem witness_ChainedBlockFormula :
    ∃ buf : List Byte, buf ≠ [] ∧ buf.length % 16 = 0 ∧ 1 < buf.length / 16 := ⟨hex 32 7, by decide⟩

theorem witness_ChainedRoundTrip :
    ∃ (s : State) (iv m : List Byte), m ≠ [] ∧ m.length % 16 = 0 ∧ 1 < m.length / 16 ∧ s.kv = true ∧ iv.length = 16 ∧
      bufferLenOk m.length = true := ⟨keyed, hex 16 9, hex 32 7, by decide⟩

theorem witness_ContinuationAcrossFragments :
    ∃ (s : State) (a b : List Byte), a.length % 16 = 0 ∧ b.length % 16 = 0 ∧ s.kv = true ∧
      bufferLenOk a.length = true ∧ bufferLenOk b.length = true ∧ bufferLenOk (a ++ b).length = true :=
  ⟨keyed, hex 16 7, hex 32 9, by decide⟩

theorem witness_BitFlipPropagation :
    ∃ (cs : List Block) (c d : Block) (i : Nat), cs[i]? = some c ∧ d ≠ Block.zero ∧ i + 1 < cs.length :=
  ⟨[keyA, keyB, keyA], keyB, hexBlock 1, 1, by decide +kernel⟩

theorem witness_BitFlipPropagation_last_block :
    ∃ (cs : List Block) (c d : Block) (i : Nat), cs[i]? = some c ∧ d ≠ Block.zero ∧ i + 1 = cs.length :=
  ⟨[keyA, keyB], keyB, hexBlock 1, 1, by decide +kernel⟩

theorem witness_ChainedAndStatelessAgreement :
    ∃ buf : List Byte, buf.length % 16 = 0 ∧ 16 ≤ buf.length ∧ 32 ≤ buf.length := ⟨hex 32 7, by decide⟩

theorem witness_StatelessPathLaws :
    ∃ a b : List Byte, a.length % 16 = 0 ∧ b.length % 16 = 0 ∧ 0 < a.length / 16 := ⟨hex 32 7, hex 16 9, by decide⟩

theorem witness_KeyexpDerivesSchedule : (hex 16 9).length = 16 := by decide

theorem witness_SingleBlockTransforms : ∃ (s : State) (p : List Byte), s.kv = true ∧ p.length = 16 :=
  ⟨keyed, hex 16 9, by decide⟩

theorem witness_StatelessBufferTransforms :
    ∃ (s : State) (p : List Byte), s.kv = true ∧ p.length ≠ 0 ∧ p.length % 16 = 0 ∧ p.length ≤ Config.maxLen :=
  ⟨keyed, hex 48 9, rfl, by decide, by decide, Nat.le_trans (by decide) maxLen_bounds.1⟩

theorem witness_ChainedBufferTransforms :
    ∃ (s : State) (p : List Byte), s.kv = true ∧ p.length ≠ 0 ∧ p.length % 16 = 0 ∧ p.length ≤ Config.maxLen :=
  ⟨keyed, hex 16 9, rfl, by decide, by decide, Nat.le_trans (by decide) maxLen_bounds.1⟩

theorem witness_IvLoads : (hex 16 0xffeeddccbbaa99887766554433221100).length = 16 := by decide

theorem witness_StatusByteFields : ∃ i : Nat, 2 ≤ i ∧ i < 8 := ⟨2, by decide⟩

theorem witness_ResponseLengths :
    commandStatus .encc 32 true = .ok ∧ commandStatus .keyexp 16 false = .ok ∧ commandStatus .rdst 0 false = .ok := by
  decide

theorem witness_InvalidKeySizeError : (hex 24 0).length ≠ 16 ∧ ([] : List Byte).length ≠ 16 := by decide

theorem witness_NoKeyError :
    State.reset.kv = false ∧ Instr.decc [] ∈ [Instr.encb [], .decb [], .ence [], .dece [], .encc [], .decc []] := by
  decide

theorem witness_InvalidBlockSizeError :
    keyed.kv = true ∧ (hex 15 0).length ≠ 16 ∧ (hex 17 0).length ≠ 16 ∧
    Instr.decb (hex 17 0) ∈ [Instr.encb (hex 17 0), .decb (hex 17 0)] := by decide

/-- The clauses on `LEN` at their boundary values: 0, 17, and one block more than `MAX_LEN`. -/
theorem witness_InvalidLengthError :
    keyed.kv = true ∧ ([] : List Byte).length = 0 ∧ (hex 17 0).length % 16 ≠ 0 ∧
    (∃ p : List Byte, p.length % 16 = 0 ∧ Config.maxLen < p.length) ∧
    Instr.dece [] ∈ [Instr.encc [], .decc [], .ence [], .dece []] :=
  ⟨rfl, rfl, by decide, ⟨List.replicate (Config.maxLen + 16) 0, by simp [maxLen_mod], by simp⟩, by decide⟩

theorem witness_OperandOnNoOperandCommand :
    ([0] : List Byte).length ≠ 0 ∧ Instr.rdst [0] ∈ [Instr.ldivd [0], .rdiv [0], .rdst [0]] := by decide

theorem witness_ErrorEntryAndErr :
    commandStatus .encb 5 true ≠ .ok ∧ commandStatus .rdst 1 true ≠ .ok ∧
    answered (exec (.rdiv []) keyed) ≠ none := by decide +kernel

theorem witness_FailedCommandLeavesNoTrace :
    ∃ i j : Instr, commandStatus i.opcode i.len keyed.kv ≠ .ok ∧ exec i keyed = .next (keyed.raise .invalidLength) ∧
      ¬ (j.opcode = .rdst ∧ j.len = 0) := ⟨.encc [], .encb (hex 16 9), by decide, rfl, by decide⟩

theorem witness_StepKeepsInvariant :
    ∃ s t : State, Inv s ∧ step s = .next t ∧ s.hostEvents ≠ [] :=
  ⟨State.reset.sendFirst [0x0B, 0, 0, 0, 0], _,
    ⟨(fun h => nomatch h), (by decide), (fun _ h => nomatch h)⟩, rfl, List.cons_ne_nil _ _⟩

theorem witness_WholeFramesNeverStop :
    (State.reset.sendFirst [0x02, 0, 0, 0, 1, 0xAB]).hostObeys = true ∧ wholeFrame [0x02, 0, 0, 0, 1] = false := by decide

theorem witness_OneResponsePerFrame :
    ∃ (s t : State), s.hostEvents = .frame [0x0A, 0, 0, 0, 0] :: [.reset] ∧ step s = .next t :=
  ⟨{ keyed with hostEvents := [.frame [0x0A, 0, 0, 0, 0], .reset] }, _, rfl, rfl⟩

theorem witness_KeyWrittenOnlyByKeyexp : ∃ s t : State, step s = .next t ∧ s.kv = false :=
  ⟨State.reset, State.reset, rfl, rfl⟩

theorem witness_SessionStateMachine :
    (∃ t, step { keyed with hostEvents := [.reset] } = .next t) ∧
    (∃ t, exec (.ldiv (hex 16 9)) keyed = .next t) ∧ (∃ t, exec (.ldivd []) keyed = .next t) ∧
    (∃ t, exec (.encc (hex 16 9)) keyed = .next t) ∧ (∃ t, exec (.decc (hex 32 9)) keyed = .next t) ∧
    (∃ t, exec (.encc []) keyed = .next t) ∧ (∃ t, exec (.rdiv []) keyed = .next t) :=
  ⟨⟨_, rfl⟩, ⟨_, rfl⟩, ⟨_, rfl⟩, ⟨_, rfl⟩, ⟨_, rfl⟩, ⟨_, rfl⟩, ⟨_, rfl⟩⟩

theorem witness_ScheduleIsNotReadBack :
    Opcode.rdiv.needsKey = false ∧ commandStatus Opcode.encb 16 false ≠ .ok := by decide

theorem witness_RepeatedCommandsAreIdempotent :
    ∃ (i : Instr) (t : State), i.opcode ≠ .encc ∧ i.opcode ≠ .decc ∧ exec i keyed = .next t :=
  ⟨.rdst [], _, by decide, by decide, rfl⟩

theorem witness_PseudoCommandResults :
    ∃ b buf iv badIv : List Byte, b.length = 16 ∧ iv.length = 16 ∧ keyed.kv = true ∧ bufferLenOk buf.length = true ∧
      bufferLenOk (buf.drop 1).length = false ∧ badIv.length ≠ 16 := ⟨hex 16 1, hex 32 7, hex 16 9, hex 15 0, by decide⟩

theorem witness_SequencerComputesCommands :
    commandStatus .decc 32 true = .ok ∧ Opcode.decc.needsKey = true ∧ commandStatus .keyexp 16 false = .ok := by decide

end Sys2Proof.Tests
end

section
/-! PROOFS of the family 10_state.md. First the facts they share: what a command does when its checks pass and when they fail,
as one equation of `exec` each; response frames and command frames read back. -/

namespace Sys2Proof

/-! ## Frames -/

/-- The four bytes of a 32-bit length are the bytes it was read from (R33). -/
theorem be32_be32Value (b1 b2 b3 b4 : Byte) : be32 (be32Value b1 b2 b3 b4) = [b1, b2, b3, b4] := by
  have h1 := b1.isLt
  have h2 := b2.isLt
  have h3 := b3.isLt
  have h4 := b4.isLt
  simp only [be32, be32Value, List.cons.injEq, and_true, ← BitVec.toNat_inj, BitVec.toNat_ofNat]
  omega

/-- A frame that decodes to a command is the frame of that command (R51, R56). -/
theorem encode_of_decode {frame : List Byte} {i : Instr} (h : decode frame = .command i) : encode i = frame := by
  match frame with
  | opc :: l1 :: l2 :: l3 :: l4 :: payload =>
    rw [decode_cons] at h
    split at h
    case isFalse => cases h
    case isTrue hlen =>
      cases hop : Opcode.ofByte opc with
      | none => simp [hop] at h
      | some op =>
        obtain rfl : op.instr payload = i := by simpa [hop] using h
        simp [encode, Instr.len, hlen, be32_be32Value, Opcode.byte_of_ofByte hop]
  | [] | [_] | [_, _] | [_, _, _] | [_, _, _, _] => cases h

/-- A response whose data fits the `RLEN` field is read back as its status and data (R53). -/
theorem decodeResponse_encodeResponse (sts : Byte) {rdata : List Byte} (h : rdata.length < 2 ^ 32) :
    decodeResponse (encodeResponse sts rdata) = some (sts, rdata) :=
  if_pos (be32Value_be32 h).symm

/-! ## The key schedule -/

/-- The word steps append: a word that is there stays (R95). -/
theorem getD_foldl_keyStep (is : List Nat) (ws : List Word) {j : Nat} (hj : j < ws.length) :
    (is.foldl keyStep ws).getD j Word.zero = ws.getD j Word.zero := by
  induction is generalizing ws with
  | nil => rfl
  | cons i is ih =>
    rw [List.foldl_cons, ih _ (by simp [keyStep]; omega), keyStep, List.getD_append _ _ _ _ hj]

/-- `RK[0]` is the key itself (R96). -/
theorem keyExpand_get_zero (k : Block) : (keyExpand k).get 0 = k := by
  change roundKeyOfWords (keyWords k) 0 = k
  simp only [roundKeyOfWords, keyWords]
  rw [getD_foldl_keyStep _ _ (by simp), getD_foldl_keyStep _ _ (by simp), getD_foldl_keyStep _ _ (by simp),
    getD_foldl_keyStep _ _ (by simp)]
  rfl

end Sys2Proof

namespace Sys2Proof.Machine

/-! ## One command: its checks and its effect -/

/-- No wrong `LEN` is answered OK (R52). -/
theorem lenError_ne_ok (op : Opcode) : op.lenError ≠ .ok := by
  cases op <;> decide

/-- A command that passes its checks has a legal `LEN` (R169). -/
theorem lenOk_of_commandStatus_ok {op : Opcode} {len : Nat} {kv : Bool} (h : commandStatus op len kv = .ok) :
    op.lenOk len = true := by
  by_contra hlen
  rw [commandStatus, if_neg hlen] at h
  split at h
  · cases h
  · exact lenError_ne_ok op h

/-- The data a command that passes its checks answers with (R54). -/
def successData (i : Instr) (s : State) : List Byte :=
  match i with
  | .keyexp _ => []
  | .encb p => (encryptBlock s.rk (Block.ofBytes p)).bytes
  | .decb p => (decryptBlock s.rk (Block.ofBytes p)).bytes
  | .ence p => encryptEcb s.rk p
  | .dece p => decryptEcb s.rk p
  | .encc p => (encryptChained s.rk p s.cv).1
  | .decc p => (decryptChained s.rk p s.cv).1
  | .ldiv _ => []
  | .ldivd _ => []
  | .rdiv _ => s.cv.bytes
  | .rdst _ => s.statusBytes

/-- What a command that passes its checks does to the state before it answers (R21). -/
def successEffect (i : Instr) (s : State) : State :=
  match i with
  | .keyexp p => { s with rk := keyExpand (Block.ofBytes p), kv := true }
  | .encb _ => s.releaseRound
  | .decb _ => s.releaseRound
  | .ence _ => s.releaseBuffer
  | .dece _ => s.releaseBuffer
  | .encc p => { s.releaseBuffer with cv := (encryptChained s.rk p s.cv).2, cst := .chained }
  | .decc p => { s.releaseBuffer with cv := (decryptChained s.rk p s.cv).2, cst := .chained }
  | .ldiv p => { s with cv := Block.ofBytes p, cst := .awaitingFirst }
  | .ldivd _ => { s with cv := Config.defaultIV, cst := .awaitingFirst }
  | .rdiv _ => s
  | .rdst _ => s

/-- The state a command that passes its checks leaves; RDST alone keeps `ERR` (R17). -/
def succeed (i : Instr) (s : State) : State :=
  if i.opcode = .rdst then (successEffect i s).respond .ok (successData i s)
  else (successEffect i s).finish (successData i s)

/-- What is left of a command once its checks are made: `u` when they pass, else the error entry (R169, R170). -/
def afterChecks (op : Opcode) (len : Nat) (s u : State) : State :=
  if commandStatus op len s.kv = .ok then u else s.raise (commandStatus op len s.kv)

/-- The two checks of a command that needs a key, in the order of R169; `c` is how it refuses a wrong `LEN`. -/
theorem keyed_checks_eq {op : Opcode} {len : Nat} {s u : State} {c : Prop} [Decidable c]
    (hop : op.needsKey = true) (hc : c ↔ ¬ op.lenOk len = true) :
    (if s.kv = false then Host.Outcome.next (s.raise .noKey)
      else if c then .next (s.raise op.lenError) else .next u : Host.Outcome State Fault Refusal) =
      .next (afterChecks op len s u) := by
  cases hkv : s.kv with
  | false => simp [afterChecks, commandStatus, hop, hkv]
  | true =>
    by_cases hl : op.lenOk len = true
    · simp [afterChecks, commandStatus, hkv, hc, hl]
    · simp [afterChecks, commandStatus, hkv, hc, hl, lenError_ne_ok]

/-- The one check of a command that needs no key. -/
theorem keyless_check_eq {op : Opcode} {len : Nat} {s u : State} {c : Prop} [Decidable c]
    (hop : op.needsKey = false) (hc : c ↔ ¬ op.lenOk len = true) :
    (if c then Host.Outcome.next (s.raise op.lenError) else .next u : Host.Outcome State Fault Refusal) =
      .next (afterChecks op len s u) := by
  by_cases hl : op.lenOk len = true
  · simp [afterChecks, commandStatus, hop, hc, hl]
  · simp [afterChecks, commandStatus, hop, hc, hl, lenError_ne_ok]

/-- Everything a command does: its checks, then its own effect and its answer. -/
theorem exec_eq (i : Instr) (s : State) : exec i s = .next (afterChecks i.opcode i.len s (succeed i s)) := by
  cases i with
  | keyexp p => exact keyless_check_eq (op := .keyexp) rfl beq_iff_eq.not.symm
  | encb p => exact keyed_checks_eq (op := .encb) rfl beq_iff_eq.not.symm
  | decb p => exact keyed_checks_eq (op := .decb) rfl beq_iff_eq.not.symm
  | ence p => exact keyed_checks_eq (op := .ence) rfl (Bool.not_eq_true _).symm.to_iff
  | dece p => exact keyed_checks_eq (op := .dece) rfl (Bool.not_eq_true _).symm.to_iff
  | encc p => exact keyed_checks_eq (op := .encc) rfl (Bool.not_eq_true _).symm.to_iff
  | decc p => exact keyed_checks_eq (op := .decc) rfl (Bool.not_eq_true _).symm.to_iff
  | ldiv p => exact keyless_check_eq (op := .ldiv) rfl beq_iff_eq.not.symm
  | ldivd p => exact keyless_check_eq (op := .ldivd) rfl beq_iff_eq.not.symm
  | rdiv p => exact keyless_check_eq (op := .rdiv) rfl beq_iff_eq.not.symm
  | rdst p => exact keyless_check_eq (op := .rdst) rfl beq_iff_eq.not.symm

/-- A command that passes its checks has its own effect and answers OK. -/
theorem exec_of_ok {i : Instr} {s : State} (h : commandStatus i.opcode i.len s.kv = .ok) :
    exec i s = .next (succeed i s) := by
  rw [exec_eq, afterChecks, if_pos h]

/-- A command that fails a check is one error entry (R170). -/
theorem exec_of_error {i : Instr} {s : State} (h : commandStatus i.opcode i.len s.kv ≠ .ok) :
    exec i s = .next (s.raise (commandStatus i.opcode i.len s.kv)) := by
  rw [exec_eq, afterChecks, if_neg h]

/-! ### What a successful command writes -/

/-- A legal buffer is a whole number of blocks (R143). -/
theorem bufferLenOk_mod {len : Nat} (h : bufferLenOk len = true) : len % 16 = 0 := by
  obtain ⟨-, hmod, -⟩ := (bufferLenOk_iff len).mp h
  exact hmod

/-- The data of a successful command is as long as R54 says. -/
theorem successData_length {i : Instr} (s : State) (h : i.opcode.lenOk i.len = true) :
    (successData i s).length = rlenOnSuccess i.opcode i.len := by
  cases i with
  | ence p => exact encryptEcb_length _ (bufferLenOk_mod h)
  | dece p => exact decryptEcb_length _ (bufferLenOk_mod h)
  | encc p => exact encryptChained_length _ _ (bufferLenOk_mod h)
  | decc p => exact decryptChained_length _ _ (bufferLenOk_mod h)
  | keyexp | encb | decb | ldiv | ldivd | rdiv | rdst => rfl

/-- The data of every command whose `LEN` is legal fits the `RLEN` field. -/
theorem rlenOnSuccess_lt {op : Opcode} {len : Nat} (h : op.lenOk len = true) : rlenOnSuccess op len < 2 ^ 32 := by
  cases op with
  | ence | dece | encc | decc => exact bufferLenOk_lt h
  | keyexp | encb | decb | ldiv | ldivd | rdiv | rdst => simp [rlenOnSuccess]

theorem successEffect_responses (i : Instr) (s : State) : (successEffect i s).responses = s.responses := by
  cases i <;> rfl

/-- A successful command but KEYEXP leaves `KV` and `RK` as they were (R11, R13). -/
theorem successEffect_key {i : Instr} (s : State) (h : i.opcode ≠ .keyexp) :
    (successEffect i s).kv = s.kv ∧ (successEffect i s).rk = s.rk := by
  cases i with
  | keyexp p => exact absurd rfl h
  | encb | decb | ence | dece | encc | decc | ldiv | ldivd | rdiv | rdst => exact ⟨rfl, rfl⟩

@[simp] theorem succeed_kv (i : Instr) (s : State) : (succeed i s).kv = (successEffect i s).kv := by
  unfold succeed; split <;> rfl

@[simp] theorem succeed_rk (i : Instr) (s : State) : (succeed i s).rk = (successEffect i s).rk := by
  unfold succeed; split <;> rfl

@[simp] theorem succeed_cv (i : Instr) (s : State) : (succeed i s).cv = (successEffect i s).cv := by
  unfold succeed; split <;> rfl

@[simp] theorem succeed_responses (i : Instr) (s : State) :
    (succeed i s).responses = s.responses ++ [encodeResponse 0x00 (successData i s)] := by
  unfold succeed; split <;> rw [← successEffect_responses i s] <;> rfl

/-- `ERR` after a successful command: that of RDST is the earlier one (R17). -/
theorem succeed_err (i : Instr) (s : State) : (succeed i s).err = s.err ∨ (succeed i s).err = 0x00 := by
  cases i with
  | rdst p => exact .inl rfl
  | keyexp | encb | decb | ence | dece | encc | decc | ldiv | ldivd | rdiv => exact .inr rfl

/-- Everything one step can do (R37): idle; one command frame, with its checks; a reserved opcode; a reset. -/
theorem step_cases {s t : State} (h : step s = .next t) :
    (s.hostEvents = [] ∧ t = s) ∨
    (∃ i rest, s.hostEvents = .frame (encode i) :: rest ∧
      ((commandStatus i.opcode i.len s.kv = .ok ∧ t = succeed i { s with hostEvents := rest }) ∨
        (commandStatus i.opcode i.len s.kv ≠ .ok ∧
          t = ({ s with hostEvents := rest } : State).raise (commandStatus i.opcode i.len s.kv)))) ∨
    (∃ bytes opc rest, s.hostEvents = .frame bytes :: rest ∧ decode bytes = .reserved opc ∧
      t = ({ s with hostEvents := rest } : State).raise .badCommand) ∨
    (∃ rest, (s.hostEvents = .reset :: rest ∨ ∃ bytes, s.hostEvents = .frameCutByReset bytes :: rest) ∧
      t = ({ s with hostEvents := rest } : State).applyReset) := by
  unfold step at h
  obtain ⟨hidle, hrun⟩ | ⟨bytes, rest, hev, hrun⟩ | ⟨e, rest, hev, he, hrun⟩ := takeEvent_cases s <;> rw [hrun] at h
  · cases h
    exact .inl ⟨hidle, rfl⟩
  · obtain ⟨i, hdec, hexec⟩ | ⟨opc, hdec, hraise⟩ | ⟨-, hrefused⟩ := runFrame_cases bytes { s with hostEvents := rest }
    · rw [hexec, exec_eq] at h
      cases h
      refine .inr (.inl ⟨i, rest, by rw [encode_of_decode hdec, hev], ?_⟩)
      unfold afterChecks
      split
      · exact .inl ⟨‹_›, rfl⟩
      · exact .inr ⟨‹_›, rfl⟩
    · rw [hraise] at h
      cases h
      exact .inr (.inr (.inl ⟨bytes, opc, rest, hev, hdec, rfl⟩))
    · rw [hrefused] at h
      cases h
  · cases h
    obtain rfl | ⟨bytes, rfl⟩ := he
    · exact .inr (.inr (.inr ⟨rest, .inl hev, rfl⟩))
    · exact .inr (.inr (.inr ⟨rest, .inr ⟨bytes, hev⟩, rfl⟩))

/-! ## The invariant (O43, O44) -/

theorem codeLegal_code (e : Status) : codeLegal e.code = true := by
  cases e <;> decide

/-- An answered success is a legal response frame when its data fits the `RLEN` field. -/
theorem responseLegal_ok {rdata : List Byte} (h : rdata.length < 2 ^ 32) :
    responseLegal (encodeResponse 0x00 rdata) = true := by
  rw [responseLegal, decodeResponse_encodeResponse _ h]
  rfl

/-- An error entry answers a legal response frame (R170). -/
theorem responseLegal_error (e : Status) : responseLegal (encodeResponse e.code []) = true := by
  cases e <;> decide

/-- The invariant holds after one more legal response, when the schedule and `ERR` are as they should be. -/
theorem Inv.of_response {s t : State} {frame : List Byte} (hs : Inv s) (hsched : ScheduleDerived t)
    (herr : codeLegal t.err = true) (hresp : t.responses = s.responses ++ [frame]) (hframe : responseLegal frame = true) :
    Inv t where
  schedule := hsched
  err := herr
  responses f hf := by
    rw [hresp, List.mem_append, List.mem_singleton] at hf
    obtain hold | rfl := hf
    · exact hs.responses f hold
    · exact hframe

/-- The invariant does not speak of the host's events. -/
theorem Inv.with_hostEvents {s : State} (hs : Inv s) (events : List HostEvent) :
    Inv { s with hostEvents := events } :=
  ⟨hs.schedule, hs.err, hs.responses⟩

theorem Inv.raise {s : State} (hs : Inv s) (e : Status) : Inv (s.raise e) :=
  hs.of_response hs.schedule (codeLegal_code e) rfl (responseLegal_error e)

theorem Inv.applyReset {s : State} (hs : Inv s) : Inv s.applyReset :=
  ⟨fun hkv => Bool.noConfusion hkv, rfl, hs.responses⟩

/-- KEYEXP writes a derived schedule, and every other command leaves schedule and `KV` alone. -/
theorem scheduleDerived_succeed {s : State} (hs : ScheduleDerived s) (i : Instr) : ScheduleDerived (succeed i s) := by
  by_cases hi : i.opcode = .keyexp
  · cases i with
    | keyexp p =>
      intro _
      change keyExpand (Block.ofBytes p) = keyExpand ((keyExpand (Block.ofBytes p)).get 0)
      rw [keyExpand_get_zero]
    | encb | decb | ence | dece | encc | decc | ldiv | ldivd | rdiv | rdst => cases hi
  · obtain ⟨hkv, hrk⟩ := successEffect_key s hi
    simpa [ScheduleDerived, hkv, hrk] using hs

theorem Inv.succeed {s : State} (hs : Inv s) {i : Instr} (hlen : i.opcode.lenOk i.len = true) : Inv (succeed i s) := by
  refine hs.of_response (scheduleDerived_succeed hs.schedule i) ?_ (succeed_responses i s) (responseLegal_ok ?_)
  · obtain herr | herr := succeed_err i s <;> rw [herr]
    · exact hs.err
    · rfl
  · rw [successData_length s hlen]
    exact rlenOnSuccess_lt hlen

/-- Settles O44: each of the five things a step can do keeps the invariant. -/
theorem stepKeepsInvariant : Obligations.StepKeepsInvariant := by
  intro s t hs h
  obtain ⟨-, rfl⟩ | ⟨i, rest, -, ⟨hok, rfl⟩ | ⟨-, rfl⟩⟩ | ⟨-, -, rest, -, -, rfl⟩ | ⟨rest, -, rfl⟩ := step_cases h
  · exact hs
  · exact (hs.with_hostEvents rest).succeed (lenOk_of_commandStatus_ok hok)
  · exact (hs.with_hostEvents rest).raise _
  · exact (hs.with_hostEvents rest).raise .badCommand
  · exact (hs.with_hostEvents rest).applyReset

/-- Settles O43: `KV` is 0, `ERR` is 0x00 and nothing has been answered. -/
theorem resetSatisfiesInvariant : Obligations.ResetSatisfiesInvariant :=
  ⟨fun hkv => Bool.noConfusion hkv, rfl, fun _ hf => nomatch hf⟩

/-! ## The key (O47, O49) -/

/-- Settles O47: of all that a step can do, only KEYEXP and reset write `KV` or `RK`. -/
theorem keyWrittenOnlyByKeyexp : Obligations.KeyWrittenOnlyByKeyexp := by
  intro s t h
  obtain ⟨-, rfl⟩ | ⟨i, rest, hev, ⟨hok, rfl⟩ | ⟨-, rfl⟩⟩ | ⟨-, -, rest, -, -, rfl⟩ | ⟨rest, hev, rfl⟩ := step_cases h
  · exact .inl ⟨rfl, rfl⟩
  · by_cases hi : i.opcode = .keyexp
    · cases i with
      | keyexp p =>
        have hlen : p.length = 16 := beq_iff_eq.mp (lenOk_of_commandStatus_ok hok)
        exact .inr (.inl ⟨p, rest, hev, hlen, rfl, rfl⟩)
      | encb | decb | ence | dece | encc | decc | ldiv | ldivd | rdiv | rdst => cases hi
    · left
      simpa using successEffect_key { s with hostEvents := rest } hi
  · exact .inl ⟨rfl, rfl⟩
  · exact .inl ⟨rfl, rfl⟩
  · exact .inr (.inr ⟨rest, hev, rfl⟩)

/-- A successful command that needs no key leaves the same state from another schedule, but for `RK`, which KEYEXP writes and
the others keep. -/
theorem succeed_with_rk {i : Instr} (s : State) (rk : Schedule) (h : i.opcode.needsKey = false) :
    { succeed i { s with rk := rk } with rk := (succeed i s).rk } = succeed i s ∧
      ((succeed i { s with rk := rk }).rk = (succeed i s).rk ∨
        ((succeed i s).rk = s.rk ∧ (succeed i { s with rk := rk }).rk = rk)) := by
  cases i with
  | keyexp p => exact ⟨rfl, .inl rfl⟩
  | ldiv | ldivd | rdiv | rdst => exact ⟨rfl, .inr ⟨rfl, rfl⟩⟩
  | encb | decb | ence | dece | encc | decc => cases h

/-- Settles O49: the checks do not look at `RK`, an error entry keeps it, and no success of a keyless command reads it. -/
theorem scheduleIsNotReadBack : Obligations.ScheduleIsNotReadBack := by
  intro i s rk h
  by_cases hok : commandStatus i.opcode i.len s.kv = .ok
  · have hkey : i.opcode.needsKey = false := h.resolve_right (not_not_intro hok)
    exact ⟨_, _, exec_of_ok hok, exec_of_ok hok, succeed_with_rk s rk hkey⟩
  · exact ⟨_, _, exec_of_error hok, exec_of_error hok, rfl, .inr ⟨rfl, rfl⟩⟩

/-! ## STATUS (O34) -/

/-- STATUS byte 0 bit by bit (R18). -/
theorem statusByte0_bits (kv : Bool) (cst : Session) :
    (statusByte0 kv cst).getLsbD 0 = kv ∧ (statusByte0 kv cst).getLsbD 1 = decide (cst = .chained) ∧
      ∀ i : Nat, 2 ≤ i → i < 8 → (statusByte0 kv cst).getLsbD i = false := by
  refine ⟨?_, ?_, fun i h2 h8 => ?_⟩
  · cases kv <;> cases cst <;> decide
  · cases kv <;> cases cst <;> decide
  · interval_cases i <;> cases kv <;> cases cst <;> decide

/-- Settles O34: the bits of byte 0, with `ERR` behind it. -/
theorem statusByteFields : Obligations.StatusByteFields :=
  ⟨fun s => ⟨statusByte0 s.kv s.cst, rfl, statusByte0_bits s.kv s.cst⟩, rfl⟩

end Sys2Proof.Machine
end

section
/-! PROOFS of the family 10_state.md, inside a command: the counters `RND` and `BLK`, and the operation lists against the meanings
of the commands. -/

namespace Sys2Proof

/-! ## The round counter (O55) -/

/-- An operation that leaves `RND` alone or adds a round key in the order `o`: what a block transform is made of. -/
def MicroOp.keepsOrder (o : KeyOrder) (op : MicroOp) : Prop := op = .addRoundKey o ∨ ∀ r, op.rndAfter r = r

theorem encryptOps_keepOrder : ∀ op ∈ encryptOps, op.keepsOrder .rising := by
  unfold MicroOp.keepsOrder
  decide

theorem decryptOps_keepOrder : ∀ op ∈ decryptOps, op.keepsOrder .falling := by
  unfold MicroOp.keepsOrder
  decide

/-- Loads are the only other operations, so a list without them counts the keys used: `RND` rises by one a key, up to 10. -/
theorem foldl_rndAfter_rising {ops : List MicroOp} (h : ∀ op ∈ ops, op.keepsOrder .rising) (rnd : Fin 11) :
    (ops.foldl (fun rnd op => op.rndAfter rnd) rnd).val = min 10 (rnd.val + ops.count (.addRoundKey .rising)) := by
  induction ops generalizing rnd with
  | nil => simp; omega
  | cons op ops ih =>
    obtain ⟨hop, hops⟩ := List.forall_mem_cons.mp h
    rw [List.foldl_cons, ih hops]
    obtain rfl | hkeep := hop
    · have hnext : (KeyOrder.rising.next rnd).val = min 10 (rnd.val + 1) := by revert rnd; decide
      rw [MicroOp.rndAfter, hnext, List.count_cons_self]
      omega
    · have hne : op ≠ .addRoundKey .rising := fun he => absurd (hkeep 0) (by rw [he]; decide)
      rw [hkeep, List.count_cons_of_ne hne]

/-- In decryption order `RND` falls by one a key, down to 0. -/
theorem foldl_rndAfter_falling {ops : List MicroOp} (h : ∀ op ∈ ops, op.keepsOrder .falling) (rnd : Fin 11) :
    (ops.foldl (fun rnd op => op.rndAfter rnd) rnd).val = rnd.val - ops.count (.addRoundKey .falling) := by
  induction ops generalizing rnd with
  | nil => rfl
  | cons op ops ih =>
    obtain ⟨hop, hops⟩ := List.forall_mem_cons.mp h
    rw [List.foldl_cons, ih hops]
    obtain rfl | hkeep := hop
    · have hnext : (KeyOrder.falling.next rnd).val = rnd.val - 1 := by revert rnd; decide
      rw [MicroOp.rndAfter, hnext, List.count_cons_self]
      omega
    · have hne : op ≠ .addRoundKey .falling := fun he => absurd (hkeep 10) (by rw [he]; decide)
      rw [hkeep, List.count_cons_of_ne hne]

/-- Both loads set `RND` to the first key of the order. -/
theorem rndAfter_load {op : MicroOp} {i : Nat} {o : KeyOrder} (h : op ∈ [MicroOp.loadSingle o, .loadBlock i o])
    (r : Fin 11) : op.rndAfter r = o.first := by
  obtain rfl | rfl := by simpa using h
  · rfl
  · rfl

/-- Settles O55: a load sets `RND` to the first key, and every part of a block transform counts on from there. -/
theorem roundCounterIsNextKey : Obligations.RoundCounterIsNextKey := by
  refine fun d i k => ⟨fun load hload => ?_, fun load hload => ?_⟩
  · have hops : ∀ op ∈ encryptOps.take k, op.keepsOrder .rising :=
      fun op hop => encryptOps_keepOrder op (List.mem_of_mem_take hop)
    rw [Datapath.run_cons, Datapath.run_rnd, Datapath.apply_rnd, rndAfter_load hload, foldl_rndAfter_rising hops]
    simp [KeyOrder.first]
  · have hops : ∀ op ∈ decryptOps.take k, op.keepsOrder .falling :=
      fun op hop => decryptOps_keepOrder op (List.mem_of_mem_take hop)
    rw [Datapath.run_cons, Datapath.run_rnd, Datapath.apply_rnd, rndAfter_load hload, foldl_rndAfter_falling hops]
    rfl

/-! ## The orders of keys and blocks (O53) -/

/-- Encryption from `RND = 0` uses the keys 0 to 10. -/
theorem Datapath.keysUsed_encryptOps (d : Datapath) (h : d.rnd = 0) :
    d.keysUsed encryptOps = [0, 1, 2, 3, 4, 5, 6, 7, 8, 9, 10] := by
  simp only [encryptOps, encRounds, List.flatMap_cons, List.flatMap_nil, List.cons_append, List.nil_append, keysUsed,
    Datapath.apply, h]
  rfl

/-- Decryption from `RND = 10` uses the keys 10 down to 0. -/
theorem Datapath.keysUsed_decryptOps (d : Datapath) (h : d.rnd = 10) :
    d.keysUsed decryptOps = [10, 9, 8, 7, 6, 5, 4, 3, 2, 1, 0] := by
  simp only [decryptOps, decRounds, List.flatMap_cons, List.flatMap_nil, List.cons_append, List.nil_append, keysUsed,
    Datapath.apply, h]
  rfl

/-- The operations on one more block come last (R147). -/
theorem eachBlock_succ (n : Nat) (o : KeyOrder) (body : List MicroOp) :
    eachBlock (n + 1) o body = eachBlock n o body ++ .loadBlock n o :: body := by
  simp [eachBlock, List.range_succ]

/-- When the operations on one block use the keys `ks` from every datapath, those on `n` blocks use them `n` times over. -/
theorem Datapath.keysUsed_eachBlock {o : KeyOrder} {body : List MicroOp} {ks : List (Fin 11)}
    (hbody : ∀ (d : Datapath) (i : Nat), d.keysUsed (.loadBlock i o :: body) = ks) (d : Datapath) (n : Nat) :
    d.keysUsed (eachBlock n o body) = (List.replicate n ks).flatten := by
  induction n with
  | zero => rfl
  | succ n ih =>
    rw [eachBlock_succ, keysUsed_append, ih, hbody, List.replicate_succ', List.flatten_concat]

/-- The operations of a block transform, between operations that add no round key, use the transform's keys. -/
theorem Datapath.keysUsed_around {ops pre post : List MicroOp} {first : Fin 11} {ks : List (Fin 11)}
    (hops : ∀ d : Datapath, d.rnd = first → d.keysUsed ops = ks) (d : Datapath) (hpre : d.keysUsed pre = [])
    (hfirst : (d.run pre).rnd = first) (hpost : ∀ e : Datapath, e.keysUsed post = []) :
    d.keysUsed (pre ++ ops ++ post) = ks := by
  rw [keysUsed_append, keysUsed_append, hpre, hops _ hfirst, hpost, List.nil_append, List.append_nil]

theorem blockOrder_append (xs ys : List MicroOp) : blockOrder (xs ++ ys) = blockOrder xs ++ blockOrder ys :=
  List.filterMap_append

/-- The blocks of a multi-block command are taken up in buffer order (R147). -/
theorem blockOrder_eachBlock {body : List MicroOp} (hbody : blockOrder body = []) (n : Nat) (o : KeyOrder) :
    blockOrder (eachBlock n o body) = List.range n := by
  have hblock (i : Nat) : blockOrder (.loadBlock i o :: body) = [i] := congrArg (i :: ·) hbody
  induction n with
  | zero => rfl
  | succ n ih =>
    rw [eachBlock_succ, blockOrder_append, ih, hblock, List.range_succ]

/-- Settles O53: a load puts `RND` at the first key, so each block transform uses its keys in order. -/
theorem roundKeyAndBlockOrder : Obligations.RoundKeyAndBlockOrder := by
  have henc (d : Datapath) := d.keysUsed_encryptOps
  have hdec (d : Datapath) := d.keysUsed_decryptOps
  refine fun d n => ⟨?_, ?_, ?_, ?_, ?_⟩
  · exact Datapath.keysUsed_around henc d (pre := [.loadSingle .rising]) rfl rfl fun _ => rfl
  · exact Datapath.keysUsed_around hdec d (pre := [.loadSingle .falling]) rfl rfl fun _ => rfl
  · intro op hop
    obtain rfl | rfl := by simpa using hop
    · exact Datapath.keysUsed_eachBlock (fun d i =>
        Datapath.keysUsed_around henc d (pre := [.loadBlock i .rising]) rfl rfl fun _ => rfl) d n
    · exact Datapath.keysUsed_eachBlock (fun d i =>
        Datapath.keysUsed_around henc d (pre := [.loadBlock i .rising, .xorCv]) rfl rfl fun _ => rfl) d n
  · intro op hop
    obtain rfl | rfl := by simpa using hop
    all_goals exact Datapath.keysUsed_eachBlock (fun d i =>
        Datapath.keysUsed_around hdec d (pre := [.loadBlock i .falling]) rfl rfl fun _ => rfl) d n
  · intro op hop
    obtain rfl | rfl | rfl | rfl := by simpa using hop
    all_goals exact blockOrder_eachBlock (by decide) n _

/-! ## The operation lists compute the commands (O52)

The four multi-block commands differ only in what one block and the chaining value become; `chain` is their common loop. -/

/-- A block loop: `f` makes the output block and the next chaining value out of the chaining value and the input block. -/
def chain (f : Block → Block → Block × Block) : List Block → Block → List Block × Block
  | [], cv => ([], cv)
  | p :: ps, cv => ((f cv p).1 :: (chain f ps (f cv p).2).1, (chain f ps (f cv p).2).2)

theorem chain_cons (f : Block → Block → Block × Block) (p : Block) (ps : List Block) (cv : Block) :
    chain f (p :: ps) cv = ((f cv p).1 :: (chain f ps (f cv p).2).1, (chain f ps (f cv p).2).2) := rfl

/-- One block of the stateless path (R144, R145). -/
def ecbStep (transform : Block → Block) (cv p : Block) : Block × Block := (transform p, cv)

/-- One block of `encryptChained` (R137). -/
def cbcEncryptStep (rk : Schedule) (cv p : Block) : Block × Block :=
  (encryptBlock rk (p.xor cv), encryptBlock rk (p.xor cv))

/-- One block of `decryptChained` (R139). -/
def cbcDecryptStep (rk : Schedule) (cv c : Block) : Block × Block := ((decryptBlock rk c).xor cv, c)

theorem chain_ecbStep (transform : Block → Block) (bs : List Block) (cv : Block) :
    chain (ecbStep transform) bs cv = (bs.map transform, cv) := by
  induction bs generalizing cv with
  | nil => rfl
  | cons b bs ih => rw [chain_cons, ih]; rfl

theorem chain_cbcEncryptStep (rk : Schedule) (bs : List Block) (cv : Block) :
    chain (cbcEncryptStep rk) bs cv = cbcEncrypt rk bs cv := by
  induction bs generalizing cv with
  | nil => rfl
  | cons b bs ih => rw [chain_cons, ih]; rfl

theorem chain_cbcDecryptStep (rk : Schedule) (bs : List Block) (cv : Block) :
    chain (cbcDecryptStep rk) bs cv = cbcDecrypt rk bs cv := by
  induction bs generalizing cv with
  | nil => rfl
  | cons b bs ih => rw [chain_cons, ih]; rfl

/-- One more block at the end of a loop. -/
theorem chain_concat (f : Block → Block → Block × Block) (bs : List Block) (b cv : Block) :
    chain f (bs ++ [b]) cv =
      ((chain f bs cv).1 ++ [(f (chain f bs cv).2 b).1], (f (chain f bs cv).2 b).2) := by
  induction bs generalizing cv with
  | nil => rfl
  | cons a bs ih => rw [List.cons_append, chain_cons, ih]; rfl

@[simp] theorem Datapath.run_payload (d : Datapath) (ops : List MicroOp) : (d.run ops).payload = d.payload := by
  induction ops generalizing d with
  | nil => rfl
  | cons op ops ih => rw [run_cons, ih, apply_payload]

@[simp] theorem Datapath.run_rk (d : Datapath) (ops : List MicroOp) : (d.run ops).rk = d.rk := by
  induction ops generalizing d with
  | nil => rfl
  | cons op ops ih => rw [run_cons, ih, apply_rk]

/-- A block written at the end of the response data is appended to it (R36). -/
theorem memWrite_end {rdata : List Byte} {addr : Nat} (h : rdata.length = addr) (b : Block) :
    memWrite rdata addr 16 b.bytes = rdata ++ b.bytes := by
  subst h
  simp [memWrite, List.take_of_length_le, List.drop_eq_nil_of_le]

/-- What a body does with one block, when the response data holds the blocks before it: it appends the output block of `f` and
leaves the chaining value of `f`. -/
def Datapath.BodyComputes (rk : Schedule) (o : KeyOrder) (body : List MicroOp)
    (f : Block → Block → Block × Block) : Prop :=
  ∀ (d : Datapath) (i : Nat), d.rk = rk → d.rdata.length = 16 * i →
    (d.run (.loadBlock i o :: body)).rdata = d.rdata ++ (f d.cv (blockAt d.payload i)).1.bytes ∧
    (d.run (.loadBlock i o :: body)).cv = (f d.cv (blockAt d.payload i)).2

theorem Datapath.bodyComputes_ence (rk : Schedule) :
    BodyComputes rk .rising (encryptOps ++ [.storeBlock]) (ecbStep (encryptBlock rk)) := by
  intro d i hrk hlen
  rw [run_cons, run_append, run_encryptOps _ rfl]
  simp [Datapath.apply, memWrite_end hlen, ecbStep, hrk]

theorem Datapath.bodyComputes_dece (rk : Schedule) :
    BodyComputes rk .falling (decryptOps ++ [.storeBlock]) (ecbStep (decryptBlock rk)) := by
  intro d i hrk hlen
  rw [run_cons, run_append, run_decryptOps _ rfl]
  simp [Datapath.apply, memWrite_end hlen, ecbStep, hrk]

theorem Datapath.bodyComputes_encc (rk : Schedule) :
    BodyComputes rk .rising (.xorCv :: encryptOps ++ [.latchCvFromState, .storeBlock]) (cbcEncryptStep rk) := by
  intro d i hrk hlen
  rw [run_cons, List.cons_append, run_cons, run_append, run_encryptOps _ rfl]
  simp [Datapath.apply, memWrite_end hlen, cbcEncryptStep, hrk]

theorem Datapath.bodyComputes_decc (rk : Schedule) :
    BodyComputes rk .falling (decryptOps ++ [.xorCv, .storeBlock, .latchCvFromPayload]) (cbcDecryptStep rk) := by
  intro d i hrk hlen
  rw [run_cons, run_append, run_decryptOps _ rfl]
  simp [Datapath.apply, memWrite_end hlen, cbcDecryptStep, hrk]

@[simp] theorem chain_length (f : Block → Block → Block × Block) (bs : List Block) (cv : Block) :
    (chain f bs cv).1.length = bs.length := by
  induction bs generalizing cv with
  | nil => rfl
  | cons b bs ih => rw [chain_cons, List.length_cons, ih, List.length_cons]

/-- A body that computes `f` on each block computes the loop of `f` on `n` blocks. -/
theorem Datapath.run_eachBlock {d : Datapath} {o : KeyOrder} {body : List MicroOp} {f : Block → Block → Block × Block}
    (hbody : BodyComputes d.rk o body f) (hd : d.rdata = []) (n : Nat) :
    (d.run (eachBlock n o body)).rdata = joinBlocks (chain f ((List.range n).map (blockAt d.payload)) d.cv).1 ∧
    (d.run (eachBlock n o body)).cv = (chain f ((List.range n).map (blockAt d.payload)) d.cv).2 := by
  induction n with
  | zero => exact ⟨hd, rfl⟩
  | succ n ih =>
    obtain ⟨hrdata, hcv⟩ := ih
    obtain ⟨hrdata', hcv'⟩ := hbody (d.run (eachBlock n o body)) n (run_rk ..) (by rw [hrdata]; simp)
    rw [eachBlock_succ, run_append, hrdata', hcv', hrdata, hcv, run_payload, List.range_succ, List.map_append,
      List.map_singleton, chain_concat, joinBlocks_append]
    exact ⟨rfl, rfl⟩

/-- With no response data yet, storing the single block makes it the response data (R36). -/
theorem Datapath.run_storeSingle {d : Datapath} (h : d.rdata = []) :
    d.run [.storeSingle] = { d with rdata := d.st.bytes } := by
  have hlen : d.rdata.length = 0 := by rw [h, List.length_nil]
  rw [run_cons, run_nil, Datapath.apply, memWrite_end hlen, h, List.nil_append]

/-- ENCB's list answers `encryptBlock` of block 0 (R113). -/
theorem Datapath.run_encb {d : Datapath} (hd : d.rdata = []) (n : Nat) :
    (d.run (microProgram .encb n)).rdata = (encryptBlock d.rk (blockAt d.payload 0)).bytes ∧
    (d.run (microProgram .encb n)).cv = d.cv := by
  rw [microProgram, List.cons_append, run_cons, run_append, run_encryptOps _ rfl, run_storeSingle]
  · exact ⟨rfl, rfl⟩
  · exact hd

/-- DECB's list answers `decryptBlock` of block 0 (R128). -/
theorem Datapath.run_decb {d : Datapath} (hd : d.rdata = []) (n : Nat) :
    (d.run (microProgram .decb n)).rdata = (decryptBlock d.rk (blockAt d.payload 0)).bytes ∧
    (d.run (microProgram .decb n)).cv = d.cv := by
  rw [microProgram, List.cons_append, run_cons, run_append, run_decryptOps _ rfl, run_storeSingle]
  · exact ⟨rfl, rfl⟩
  · exact hd

/-- A list of word steps is R95's second loop. -/
theorem Datapath.run_expandWords (d : Datapath) (is : List Nat) :
    (d.run (is.map .expandWord)).words = is.foldl keyStep d.words := by
  induction is generalizing d with
  | nil => rfl
  | cons i is ih => rw [List.map_cons, run_cons, ih, List.foldl_cons]; rfl

/-- The words KEYEXP's list derives are those of `keyWords` (R95). -/
theorem Datapath.run_keyExpandOps {d : Datapath} (h : d.words = []) :
    (d.run keyExpandOps).words = keyWords (blockAt d.payload 0) := by
  rw [keyExpandOps, run_append, run_expandWords, keyWords]
  congr 1
  simp [Datapath.apply, h, List.range_succ, Block.column]

/-- A payload of one block is its block 0. -/
theorem blockAt_zero {p : List Byte} (h : p.length = 16) : blockAt p 0 = Block.ofBytes p := by
  rw [blockAt, memRead, Nat.mul_zero, List.drop_zero, List.take_of_length_le h.le]

end Sys2Proof

namespace Sys2Proof.Machine

@[simp] theorem State.datapath_payload (s : State) (p : List Byte) : (s.datapath p).payload = p := rfl

/-- The operation list of a transform computes the data its command answers and the `CV` it leaves (R196). -/
theorem run_microProgram {i : Instr} (s : State) (hkey : i.opcode.needsKey = true)
    (hlen : i.opcode.lenOk i.len = true) :
    ((s.datapath i.payload).run (microProgram i.opcode (i.len / 16))).rdata = successData i s ∧
    ((s.datapath i.payload).run (microProgram i.opcode (i.len / 16))).cv = (succeed i s).cv := by
  cases i with
  | encb p =>
    have hp : p.length = 16 := beq_iff_eq.mp hlen
    have h := Datapath.run_encb (d := s.datapath p) rfl (p.length / 16)
    rwa [State.datapath_payload, blockAt_zero hp] at h
  | decb p =>
    have hp : p.length = 16 := beq_iff_eq.mp hlen
    have h := Datapath.run_decb (d := s.datapath p) rfl (p.length / 16)
    rwa [State.datapath_payload, blockAt_zero hp] at h
  | ence p =>
    have h := Datapath.run_eachBlock (d := s.datapath p) (Datapath.bodyComputes_ence s.rk) rfl (p.length / 16)
    rwa [chain_ecbStep] at h
  | dece p =>
    have h := Datapath.run_eachBlock (d := s.datapath p) (Datapath.bodyComputes_dece s.rk) rfl (p.length / 16)
    rwa [chain_ecbStep] at h
  | encc p =>
    have h := Datapath.run_eachBlock (d := s.datapath p) (Datapath.bodyComputes_encc s.rk) rfl (p.length / 16)
    rwa [chain_cbcEncryptStep] at h
  | decc p =>
    have h := Datapath.run_eachBlock (d := s.datapath p) (Datapath.bodyComputes_decc s.rk) rfl (p.length / 16)
    rwa [chain_cbcDecryptStep] at h
  | keyexp | ldiv | ldivd | rdiv | rdst => cases hkey

/-- Settles O52: the list computes the data and the `CV` of each transform, and KEYEXP's list the words of the schedule. -/
theorem sequencerComputesCommands : Obligations.SequencerComputesCommands := by
  intro i s hok
  have hlen := lenOk_of_commandStatus_ok hok
  refine ⟨fun hkey => ⟨succeed i s, exec_of_ok hok, ?_, ?_⟩, fun hi => ⟨succeed i s, exec_of_ok hok, ?_⟩⟩
  · rw [(run_microProgram s hkey hlen).1, succeed_responses]
  · rw [(run_microProgram s hkey hlen).2]
  · cases i with
    | keyexp p =>
      rw [Instr.opcode, microProgram, Datapath.run_keyExpandOps rfl]
      have hp : p.length = 16 := beq_iff_eq.mp hlen
      change keyExpand (Block.ofBytes p) = keyExpand (blockAt p 0)
      rw [blockAt_zero hp]
    | encb | decb | ence | dece | encc | decc | ldiv | ldivd | rdiv | rdst => cases hi

end Sys2Proof.Machine
end

section
/-! PROOFS of the family 20_memory.md: the block-to-state mapping, and commands sent twice. -/

namespace Sys2Proof

/-! ## The block-to-state mapping (O12) -/

/-- The cell at row `r`, column `c` is byte `r + 4c` (R31). -/
theorem Block.cell_eq_get (b : Block) (r c : Fin 4) : b.cell r c = b.get ⟨r.val + 4 * c.val, by omega⟩ := by
  have hrow : rowOf ⟨r.val + 4 * c.val, by omega⟩ = r := Fin.ext (by simp only [rowOf]; omega)
  have hcol : colOf ⟨r.val + 4 * c.val, by omega⟩ = c := Fin.ext (by simp only [colOf]; omega)
  rw [Block.get, hrow, hcol]

/-- Byte `n` of the block of a sequence of 16 bytes is byte `n` of the sequence (R31). -/
theorem Block.get_ofBytes {l : List Byte} (h : l.length = 16) (n : Fin 16) :
    l[n.val]? = some ((Block.ofBytes l).get n) := by
  have hn : n.val < l.length := by omega
  rw [Block.ofBytes, Block.get_ofFn, List.getD_eq_getElem _ _ hn, List.getElem?_eq_getElem hn]

/-- Settles O12: a cell is the byte at its index, and the bytes of a block are those it was made of. -/
theorem blockStateMapping : Obligations.BlockStateMapping := by
  refine fun l h => ⟨fun r c => ?_, Block.bytes_ofBytes h⟩
  rw [Block.cell_eq_get]
  exact Block.get_ofBytes h ⟨r.val + 4 * c.val, by omega⟩

end Sys2Proof

namespace Sys2Proof.Machine

/-! ## Commands sent twice (O50)

What a command reads it does not write, ENCC and DECC apart: they read the `CV` they write. -/

/-- A command whose checks passed passes them again: only KEYEXP writes `KV`, and it needs none. -/
theorem commandStatus_succeed {i : Instr} {s : State} (h : commandStatus i.opcode i.len s.kv = .ok) :
    commandStatus i.opcode i.len (succeed i s).kv = .ok := by
  by_cases hi : i.opcode = .keyexp
  · rw [hi] at h ⊢
    exact h
  · rwa [succeed_kv, (successEffect_key s hi).1]

/-- A command but ENCC and DECC answers the same data after its own success (R38). -/
theorem successData_succeed {i : Instr} (s : State) (hencc : i.opcode ≠ .encc) (hdecc : i.opcode ≠ .decc) :
    successData i (succeed i s) = successData i s := by
  cases i with
  | encc p => exact absurd rfl hencc
  | decc p => exact absurd rfl hdecc
  | keyexp | encb | decb | ence | dece | ldiv | ldivd | rdiv | rdst => rfl

/-- A second success of a command but ENCC and DECC leaves the registers as the first did (R38). -/
theorem sameRegisters_succeed {i : Instr} (s : State) (hencc : i.opcode ≠ .encc) (hdecc : i.opcode ≠ .decc) :
    SameRegisters (succeed i s) (succeed i (succeed i s)) := by
  cases i with
  | encc p => exact absurd rfl hencc
  | decc p => exact absurd rfl hdecc
  | keyexp | encb | decb | ence | dece | ldiv | ldivd | rdiv | rdst => exact ⟨rfl, rfl, rfl, rfl, rfl⟩

/-- A second error entry with the same status changes no register (R170). -/
theorem sameRegisters_raise (s : State) (e : Status) : SameRegisters (s.raise e) ((s.raise e).raise e) :=
  ⟨rfl, rfl, rfl, rfl, rfl⟩

/-- Settles O50: a success is a success again with the same data and registers; an error, which keeps `KV`, is the same error
again. -/
theorem repeatedCommandsAreIdempotent : Obligations.RepeatedCommandsAreIdempotent := by
  intro i s t hencc hdecc h
  by_cases hok : commandStatus i.opcode i.len s.kv = .ok
  · rw [exec_of_ok hok] at h
    cases h
    refine ⟨_, _, exec_of_ok (commandStatus_succeed hok), sameRegisters_succeed s hencc hdecc, succeed_responses i s, ?_⟩
    rw [succeed_responses, successData_succeed s hencc hdecc]
  · rw [exec_of_error hok] at h
    cases h
    exact ⟨_, _, exec_of_error hok, sameRegisters_raise s _, rfl, rfl⟩

end Sys2Proof.Machine
end

section
/-! PROOFS of the family 30_encoding.md, frames: the decoder on the bytes of a frame, frames cut off a stream, and the step
that runs a frame. -/

namespace Sys2Proof

/-! ## What the decoder answers (R51, R55, R56) -/

/-- The reserved opcodes are 0x00 and 0x0C..0xFF (R57). -/
theorem Opcode.ofByte_eq_none_iff : ∀ {b : Byte}, Opcode.ofByte b = none ↔ b = 0x00 ∨ 0x0C ≤ b.toNat := by
  decide +kernel

/-- A reserved opcode is no command's opcode byte. -/
theorem Opcode.ne_byte_of_ofByte_none {b : Byte} (h : Opcode.ofByte b = none) (op : Opcode) : b ≠ op.byte := by
  rintro rfl
  simp at h

theorem decode_cons_of_some {opc l1 l2 l3 l4 : Byte} {payload : List Byte} {op : Opcode}
    (hlen : payload.length = be32Value l1 l2 l3 l4) (hop : Opcode.ofByte opc = some op) :
    decode (opc :: l1 :: l2 :: l3 :: l4 :: payload) = .command (op.instr payload) := by
  rw [decode_cons, if_pos hlen, hop]

theorem decode_cons_of_none {opc l1 l2 l3 l4 : Byte} {payload : List Byte}
    (hlen : payload.length = be32Value l1 l2 l3 l4) (hop : Opcode.ofByte opc = none) :
    decode (opc :: l1 :: l2 :: l3 :: l4 :: payload) = .reserved opc := by
  rw [decode_cons, if_pos hlen, hop]

theorem decode_cons_of_wrong_length {opc l1 l2 l3 l4 : Byte} {payload : List Byte}
    (hlen : payload.length ≠ be32Value l1 l2 l3 l4) :
    decode (opc :: l1 :: l2 :: l3 :: l4 :: payload) = .malformed :=
  if_neg hlen

/-- Fewer bytes than a header are no frame. -/
theorem decode_of_short {bytes : List Byte} (h : bytes.length < 5) : decode bytes = .malformed := by
  match bytes with
  | [] | [_] | [_, _] | [_, _, _] | [_, _, _, _] => rfl
  | _ :: _ :: _ :: _ :: _ :: _ => simp at h; omega

/-- A command is read back from its frame exactly when its `LEN` fits the 32-bit field. -/
theorem decode_encode_iff {i : Instr} : decode (encode i) = .command i ↔ i.wf = true := by
  constructor
  · intro h
    by_contra hwf
    have hmalformed : decode (encode i) = .malformed :=
      decode_cons_of_wrong_length fun hlen => hwf (decide_eq_true (hlen.trans_lt (be32Value_lt ..)))
    cases h.symm.trans hmalformed
  · intro hwf
    have hlen := be32Value_be32 (of_decide_eq_true hwf)
    exact (decode_cons_of_some hlen.symm i.opcode.ofByte_byte).trans (congrArg _ i.instr_opcode)

/-- Settles O4: the length field reads back, and the opcode byte is the command's own. -/
theorem decodeEncodeRoundTrip : Obligations.DecodeEncodeRoundTrip :=
  fun _ => decode_encode_iff.mpr

/-- Settles O5: a frame that decodes is its command's encoding, and that encoding decodes only when the command is well
formed. -/
theorem encodeDecodeRoundTrip : Obligations.EncodeDecodeRoundTrip := by
  intro frame i h
  have henc := encode_of_decode h
  exact ⟨henc, decode_encode_iff.mp (henc ▸ h)⟩

/-- Settles O8: byte 0 is some command's opcode byte, or none of the eleven. -/
theorem frameDecodingIsTotal : Obligations.FrameDecodingIsTotal := by
  refine ⟨fun opc l1 l2 l3 l4 payload hlen => ?_, fun _ _ _ _ _ _ => decode_cons_of_wrong_length,
    fun _ => decode_of_short⟩
  cases hop : Opcode.ofByte opc with
  | some op =>
    obtain rfl := Opcode.byte_of_ofByte hop
    rw [decode_cons_of_some hlen hop]
    cases op <;> rfl
  | none =>
    have hne : ∀ op ∈ Opcode.all, opc ≠ op.byte := fun op _ => Opcode.ne_byte_of_ofByte_none hop op
    simp only [Opcode.all, List.forall_mem_cons, Opcode.byte] at hne
    rw [decode_cons_of_none hlen hop]
    simp only [hne, if_false]

/-- Settles O7: a header with `LEN` 0 is a whole frame, and its opcode byte names its command or none. -/
theorem opcodeTableDecodes : Obligations.OpcodeTableDecodes :=
  have hcommand : ∀ op : Opcode, decode [op.byte, 0, 0, 0, 0] = .command (op.instr []) :=
    fun op => decode_cons_of_some rfl op.ofByte_byte
  ⟨hcommand .keyexp, hcommand .encb, hcommand .decb, hcommand .ence, hcommand .dece, hcommand .encc, hcommand .decc,
    hcommand .ldiv, hcommand .ldivd, hcommand .rdiv, hcommand .rdst,
    fun _ hopc => decode_cons_of_none rfl (Opcode.ofByte_eq_none_iff.mpr hopc)⟩

/-! ## Frames in a stream, response frames (R51, R53) -/

/-- The cut after a header and the `LEN` bytes behind it. -/
theorem splitFrame_cons (opc l1 l2 l3 l4 : Byte) (rest : List Byte) :
    splitFrame (opc :: l1 :: l2 :: l3 :: l4 :: rest) =
      if be32Value l1 l2 l3 l4 ≤ rest.length then
        some (opc :: l1 :: l2 :: l3 :: l4 :: rest.take (be32Value l1 l2 l3 l4), rest.drop (be32Value l1 l2 l3 l4))
      else none := by
  simp [splitFrame, Nat.add_comm 5]

/-- Settles O9: the length field of a frame reads back, and the cut is made there. -/
theorem frameStreamIsCut : Obligations.FrameStreamIsCut := by
  intro opc payload rest h
  change splitFrame (opc :: _ :: _ :: _ :: _ :: (payload ++ rest)) = _
  rw [splitFrame_cons, be32Value_be32 h, if_pos (by simp), List.take_left, List.drop_left]
  rfl

/-- Settles O10: five header bytes, and the length field reads back. -/
theorem responseFrameReadsBack : Obligations.ResponseFrameReadsBack :=
  fun sts rdata h => ⟨encodeResponse_length sts rdata, decodeResponse_encodeResponse sts h⟩

theorem decode_of_decodeTableWord {nbits w : Nat} {i : Instr} (h : decodeTableWord nbits w = some i) :
    decode (tableFrame nbits w) = .command i := by
  unfold decodeTableWord at h
  split at h
  case h_1 j hdec => cases h; exact hdec
  case h_2 | h_3 => cases h

end Sys2Proof

namespace Sys2Proof.Machine

/-! ## The step that runs a frame (R50, R57, R177, R191) -/

theorem runFrame_of_command {bytes : List Byte} {i : Instr} (s : State) (h : decode bytes = .command i) :
    runFrame bytes s = exec i s := by
  rw [runFrame, h]

theorem runFrame_of_reserved {bytes : List Byte} {opc : Byte} (s : State) (h : decode bytes = .reserved opc) :
    runFrame bytes s = .next (s.raise .badCommand) := by
  rw [runFrame, h]

theorem runFrame_of_malformed {bytes : List Byte} (s : State) (h : decode bytes = .malformed) :
    runFrame bytes s = .refused .malformedFrame := by
  rw [runFrame, h]

theorem step_of_idle {s : State} (h : s.hostEvents = []) : step s = .next s := by
  rw [step, takeEvent, h]

theorem step_of_frame {s : State} {bytes : List Byte} {rest : List HostEvent}
    (h : s.hostEvents = .frame bytes :: rest) : step s = runFrame bytes { s with hostEvents := rest } := by
  rw [step, takeEvent, h]
  rfl

/-- Settles O2: a step with a frame first is `runFrame` of it, by what the frame decodes to. -/
theorem stepRunsDecodedCommand : Obligations.StepRunsDecodedCommand := by
  refine fun s => ⟨step_of_idle, fun bytes rest hev => ?_⟩
  rw [step_of_frame hev]
  exact ⟨fun _ => runFrame_of_command _, fun _ => runFrame_of_reserved _, runFrame_of_malformed _⟩

/-- Settles O3: the placed frame is taken off again before it runs. -/
theorem withFetchWordIsRunNext : Obligations.WithFetchWordIsRunNext := by
  intro s nbits w i h
  have hfirst : (s.withFetchWord nbits w).hostEvents = .frame (tableFrame nbits w) :: s.hostEvents := rfl
  rw [step_of_frame hfirst]
  exact runFrame_of_command s (decode_of_decodeTableWord h)

/-- Settles O6: the frame is whole, its opcode is reserved, and the answer is the error entry with `BadCommand`. -/
theorem reservedOpcodesAnswered : Obligations.ReservedOpcodesAnswered := by
  refine ⟨fun s opc payload hopc hlen => ?_, by decide +kernel⟩
  have hnone : Opcode.ofByte opc = none := Opcode.ofByte_eq_none_iff.mpr hopc
  exact runFrame_of_reserved s (decode_cons_of_none (be32Value_be32 hlen).symm hnone)

/-- A command that needs no key and has a wrong `LEN` is the error entry of its length check (R52, R170). -/
theorem exec_of_wrong_len {i : Instr} (s : State) (hkey : i.opcode.needsKey = false)
    (hlen : i.opcode.lenOk i.len = false) : exec i s = .next (s.raise i.opcode.lenError) := by
  have hstatus : commandStatus i.opcode i.len s.kv = i.opcode.lenError := by simp [commandStatus, hkey, hlen]
  rw [exec_of_error (hstatus ▸ lenError_ne_ok _), hstatus]

/-- Settles O40: the three commands ask for an empty payload and no key. -/
theorem operandOnNoOperandCommand : Obligations.OperandOnNoOperandCommand := by
  intro s p i hp hi
  have hlen : (p.length == 0) = false := beq_false_of_ne hp
  simp only [List.mem_cons, List.not_mem_nil, or_false] at hi
  obtain rfl | rfl | rfl := hi
  · exact exec_of_wrong_len s rfl hlen
  · exact exec_of_wrong_len s rfl hlen
  · exact exec_of_wrong_len s rfl hlen

/-! ## Responses (R50, R53, R54) -/

/-- Settles O35: the command succeeds, and its data is as long as its `LEN` makes it. -/
theorem responseLengths : Obligations.ResponseLengths :=
  fun i s h => ⟨succeed i s, successData i s, exec_of_ok h, succeed_responses i s,
    successData_length s (lenOk_of_commandStatus_ok h)⟩

@[simp] theorem succeed_hostEvents (i : Instr) (s : State) : (succeed i s).hostEvents = s.hostEvents := by
  cases i <;> rfl

/-- Settles O46: of what a step with an event can do, a success answers its data, an error entry none, and a reset nothing. -/
theorem oneResponsePerFrame : Obligations.OneResponsePerFrame := by
  intro s t e rest hev h
  obtain ⟨hidle, -⟩ | ⟨i, rest', hev', hrun⟩ | ⟨bytes, -, rest', hev', -, rfl⟩ | ⟨rest', hreset, rfl⟩ := step_cases h
  · cases hidle.symm.trans hev
  · cases hev'.symm.trans hev
    obtain ⟨-, rfl⟩ | ⟨-, rfl⟩ := hrun
    · exact ⟨succeed_hostEvents i _, 0x00, _, succeed_responses i _, fun hsts => absurd rfl hsts⟩
    · exact ⟨rfl, _, [], rfl, fun _ => rfl⟩
  · cases hev'.symm.trans hev
    exact ⟨rfl, _, [], rfl, fun _ => rfl⟩
  · obtain hev' | ⟨_, hev'⟩ := hreset
    · cases hev'.symm.trans hev
      exact ⟨rfl, rfl⟩
    · cases hev'.symm.trans hev
      exact ⟨rfl, rfl⟩

end Sys2Proof.Machine
end

section
/-! PROOFS of the family 30_encoding.md, the host's side: commands as written lines, and the pseudo-commands. -/

namespace Sys2Proof

/-! ## Written commands (O11, R61)

A printed line is a mnemonic and an operand text; the reader drops the comment and takes the two apart at the space. -/

theorem hexValue_hexDigits : ∀ n : Fin 16, hexValue (hexDigits.getD n.val '0') = some n.val ∧
    hexDigits.getD n.val '0' ≠ ' ' ∧ hexDigits.getD n.val '0' ≠ ';' := by
  decide

/-- The two digits of a byte: their values, and that neither is a space or a semicolon. -/
theorem hexByte_eq (b : Byte) : ∃ c d, hexByte b = [c, d] ∧ hexValue c = some (b.toNat / 16) ∧
    hexValue d = some (b.toNat % 16) ∧ c ≠ ' ' ∧ c ≠ ';' ∧ d ≠ ';' := by
  have hb := b.isLt
  obtain ⟨hc, hcspace, hcsemi⟩ := hexValue_hexDigits ⟨b.toNat / 16, by omega⟩
  obtain ⟨hd, -, hdsemi⟩ := hexValue_hexDigits ⟨b.toNat % 16, by omega⟩
  exact ⟨_, _, rfl, hc, hd, hcspace, hcsemi, hdsemi⟩

theorem parseHex_hexByte_append (b : Byte) (rest : List Char) :
    parseHex (hexByte b ++ rest) = (parseHex rest).map (b :: ·) := by
  obtain ⟨c, d, hcd, hc, hd, hspace, -, -⟩ := hexByte_eq b
  have hb : BitVec.ofNat 8 (16 * (b.toNat / 16) + b.toNat % 16) = b := by
    rw [Nat.div_add_mod, BitVec.ofNat_toNat, BitVec.setWidth_eq]
  rw [hcd, List.cons_append, List.cons_append, List.nil_append, parseHex, if_neg hspace, hc, hd]
  cases parseHex rest with
  | none => rfl
  | some bs => simp [hb]

theorem parseHex_hexString_append (bs : List Byte) (rest : List Char) :
    parseHex (hexString bs ++ rest) = (parseHex rest).map (bs ++ ·) := by
  induction bs with
  | nil => simp [hexString]
  | cons b bs ih =>
    rw [hexString, List.flatMap_cons, List.append_assoc, parseHex_hexByte_append, ← hexString, ih, Option.map_map]
    rfl

/-- A space before the digits is ignored. -/
theorem parseHex_space (rest : List Char) : parseHex (' ' :: rest) = parseHex rest := by
  cases rest with
  | nil => rfl
  | cons c rest => rw [parseHex, if_pos rfl]

theorem semicolon_not_mem_hexString (bs : List Byte) : ';' ∉ hexString bs := by
  intro h
  obtain ⟨b, -, hb⟩ := List.mem_flatMap.mp h
  obtain ⟨c, d, hcd, -, -, -, hc, hd⟩ := hexByte_eq b
  rw [hcd] at hb
  simp [hc.symm, hd.symm] at hb

/-- What a printed line holds behind its mnemonic. -/
def operandText (payload : List Byte) : List Char :=
  match payload with
  | [] => []
  | b :: bs => ' ' :: hexString (b :: bs)

theorem printLine_eq (i : Instr) : printLine i = i.opcode.mnemonic ++ operandText i.payload := by
  unfold printLine
  cases i.payload with
  | nil => exact (List.append_nil _).symm
  | cons b bs => rfl

theorem parseHex_operandText_append (payload : List Byte) (rest : List Char) :
    parseHex (operandText payload ++ rest) = (parseHex rest).map (payload ++ ·) := by
  cases payload with
  | nil => simp [operandText]
  | cons b bs => rw [operandText, List.cons_append, parseHex_space, parseHex_hexString_append]

theorem semicolon_not_mem_operandText (payload : List Byte) : ';' ∉ operandText payload := by
  cases payload with
  | nil => exact List.not_mem_nil
  | cons b bs => simpa [operandText] using semicolon_not_mem_hexString (b :: bs)

theorem Opcode.ofMnemonic_mnemonic (op : Opcode) : Opcode.ofMnemonic op.mnemonic = some op := by
  cases op <;> rfl

theorem Opcode.mnemonic_chars (op : Opcode) : ∀ c ∈ op.mnemonic, c ≠ ';' ∧ c ≠ ' ' := by
  cases op <;> simp [Opcode.mnemonic]

theorem Opcode.dropWhile_mnemonic_append (op : Opcode) (rest : List Char) :
    (op.mnemonic ++ rest).dropWhile (· == ' ') = op.mnemonic ++ rest := by
  cases op <;> rfl

/-- What follows a `;` is not read. -/
theorem parseLine_comment (line comment : List Char) : parseLine (line ++ ';' :: comment) = parseLine line := by
  have htake : (line ++ ';' :: comment).takeWhile (· != ';') = line.takeWhile (· != ';') := by
    induction line with
    | nil => rfl
    | cons c line ih => simp only [List.cons_append, List.takeWhile_cons, ih]
  rw [parseLine, htake]
  rfl

/-- A mnemonic and then a text without comment that is empty or begins with a space: the mnemonic is found, and the text is
read as the payload. -/
theorem parseLine_mnemonic_append {op : Opcode} {text : List Char} {payload : List Byte} (hsemi : ';' ∉ text)
    (hspace : text.takeWhile (· != ' ') = []) (hhex : parseHex text = some payload) :
    parseLine (op.mnemonic ++ text) = some (op.instr payload) := by
  have hbody : (op.mnemonic ++ text).takeWhile (· != ';') = op.mnemonic ++ text := by
    refine List.takeWhile_eq_self_iff.mpr fun c hc => bne_iff_ne.mpr ?_
    obtain hc | hc := List.mem_append.mp hc
    · exact (op.mnemonic_chars c hc).1
    · exact fun h => hsemi (h ▸ hc)
  have hname : ∀ c ∈ op.mnemonic, (c != ' ') = true := fun c hc => bne_iff_ne.mpr (op.mnemonic_chars c hc).2
  have hdrop : text.dropWhile (· != ' ') = text := by
    simpa [hspace] using List.takeWhile_append_dropWhile (p := (· != ' ')) (l := text)
  simp only [parseLine, hbody, op.dropWhile_mnemonic_append, List.takeWhile_append_of_pos hname,
    List.dropWhile_append_of_pos hname, hspace, List.append_nil, op.ofMnemonic_mnemonic, hdrop, hhex]

/-- A printed command with or without a space behind it is read back. -/
theorem parseLine_printLine_append (i : Instr) {rest : List Char} (hrest : rest = [] ∨ rest = [' ']) :
    parseLine (printLine i ++ rest) = some i := by
  have hread : parseHex rest = some [] ∧ ';' ∉ rest ∧ rest.takeWhile (· != ' ') = [] := by
    obtain rfl | rfl := hrest <;> decide
  obtain ⟨hhex, hsemi, hspace⟩ := hread
  have hspace' : (operandText i.payload ++ rest).takeWhile (· != ' ') = [] := by
    cases i.payload with
    | nil => exact hspace
    | cons b bs => rfl
  rw [printLine_eq, List.append_assoc, parseLine_mnemonic_append (payload := i.payload) _ hspace' _, Instr.instr_opcode]
  · exact fun h => (List.mem_append.mp h).elim (semicolon_not_mem_operandText _) hsemi
  · rw [parseHex_operandText_append, hhex, Option.map_some, List.append_nil]

/-- Settles O11: the comment is dropped, the mnemonic names the opcode, and the digits are the payload. -/
theorem writtenSyntaxReadsBack : Obligations.WrittenSyntaxReadsBack := by
  intro i comment
  have hline : parseLine (printLine i) = some i := by
    simpa using parseLine_printLine_append i (.inl rfl)
  refine ⟨hline, ?_, by rw [assembleLine, hline]; rfl⟩
  rw [List.append_cons, parseLine_comment]
  exact parseLine_printLine_append i (.inr rfl)

end Sys2Proof

namespace Sys2Proof.Machine

/-! ## Command sequences (O51, R62) -/

/-- A command passes its checks when it has the key it needs and a legal `LEN` (R169). -/
theorem commandStatus_ok {op : Opcode} {len : Nat} {kv : Bool} (hkey : op.needsKey = true → kv = true)
    (hlen : op.lenOk len = true) : commandStatus op len kv = .ok := by
  cases hop : op.needsKey with
  | false => simp [commandStatus, hop, hlen]
  | true => simp [commandStatus, hkey hop, hlen]

theorem Status.code_eq_ok_iff {e : Status} : e.code = Status.ok.code ↔ e = .ok := by
  cases e <;> decide

/-- The response to a successful command reads as OK and the command's data. -/
theorem lastResponse_succeed {i : Instr} (s : State) (h : i.opcode.lenOk i.len = true) :
    (succeed i s).lastResponse = some (0x00, successData i s) := by
  have hfit : (successData i s).length < 2 ^ 32 := successData_length s h ▸ rlenOnSuccess_lt h
  simp only [State.lastResponse, succeed_responses, List.getLast?_concat, Option.bind_some,
    decodeResponse_encodeResponse _ hfit]

theorem lastResponse_raise (s : State) (e : Status) : (s.raise e).lastResponse = some (e.code, []) := by
  simp only [State.lastResponse, State.raise_responses, List.getLast?_concat, Option.bind_some]
  rfl

/-- A sequence goes on after a success. -/
theorem runSequence_cons_of_ok {i : Instr} {s : State} (h : commandStatus i.opcode i.len s.kv = .ok) (rest : List Instr) :
    runSequence (i :: rest) s =
      ((runSequence rest (succeed i s)).1.prepend (successData i s), (runSequence rest (succeed i s)).2) := by
  simp only [runSequence, exec_of_ok h, lastResponse_succeed s (lenOk_of_commandStatus_ok h)]
  rfl

/-- A sequence stops at an error (R62). -/
theorem runSequence_cons_of_error {i : Instr} {s : State} {e : Status} (hstatus : commandStatus i.opcode i.len s.kv = e)
    (he : e ≠ .ok) (rest : List Instr) : runSequence (i :: rest) s = (.failure e.code, s.raise e) := by
  subst hstatus
  simp only [runSequence, exec_of_error he, lastResponse_raise, if_neg (Status.code_eq_ok_iff.not.mpr he)]

/-! ### The shapes of the expansions -/

/-- A pseudo-command of one command returns that command's data. -/
theorem runPseudo_of_single {p : Pseudo} {i : Instr} {s : State} (hp : p.expand = [i]) (hsetup : p.setup = 0)
    (h : commandStatus i.opcode i.len s.kv = .ok) : (runPseudo p s).1 = .success [successData i s] := by
  rw [runPseudo, hp, hsetup, runSequence_cons_of_ok h]
  rfl

/-- Load `CV`, transform a buffer, read `CV`: the data of the second and the third are returned. -/
theorem runPseudo_of_load_transform {p : Pseudo} {load transform : Instr} {s : State}
    (hp : p.expand = [load, transform, .rdiv []]) (hsetup : p.setup = 1)
    (hload : commandStatus load.opcode load.len s.kv = .ok)
    (htransform : commandStatus transform.opcode transform.len (succeed load s).kv = .ok) :
    (runPseudo p s).1 = .success
      [successData transform (succeed load s), (successEffect transform (succeed load s)).cv.bytes] := by
  rw [runPseudo, hp, hsetup, runSequence_cons_of_ok hload, runSequence_cons_of_ok htransform,
    runSequence_cons_of_ok rfl, ← succeed_cv]
  rfl

/-- Settles O51: each expansion has one of the two shapes, or stops at the command whose `LEN` is wrong. -/
theorem pseudoCommandResults : Obligations.PseudoCommandResults := by
  intro s b buf iv hb hiv
  have hb16 : (b.length == 16) = true := beq_iff_eq.mpr hb
  have hldiv : commandStatus (Instr.ldiv iv).opcode (Instr.ldiv iv).len s.kv = .ok :=
    commandStatus_ok nofun (beq_iff_eq.mpr hiv)
  refine ⟨?newCipher, ?defaultIV, fun hkv => ?keyed, fun badIv hbad => ?badIv⟩
  case newCipher =>
    have hkeyexp : commandStatus (Instr.keyexp b).opcode (Instr.keyexp b).len s.kv = .ok := commandStatus_ok nofun hb16
    rw [runPseudo, Pseudo.expand, runSequence_cons_of_ok hkeyexp]
    exact ⟨rfl, rfl⟩
  case defaultIV =>
    rw [runPseudo, Pseudo.expand, runSequence_cons_of_ok rfl, runSequence_cons_of_ok rfl]
    rfl
  case badIv =>
    have hstatus : commandStatus (Instr.ldiv badIv).opcode (Instr.ldiv badIv).len s.kv = .invalidBlockSize :=
      if_neg fun hlen => hbad (beq_iff_eq.mp hlen)
    rw [runPseudo, Pseudo.expand, runSequence_cons_of_error hstatus nofun]
    exact ⟨rfl, rfl⟩
  case keyed =>
    have hok : ∀ {i : Instr}, i.opcode.lenOk i.len = true → commandStatus i.opcode i.len s.kv = .ok :=
      commandStatus_ok fun _ => hkv
    refine ⟨runPseudo_of_single (i := .encb b) rfl rfl (hok hb16),
      runPseudo_of_single (i := .decb b) rfl rfl (hok hb16), fun hbuf => ⟨?_, ?_, ?_, ?_, ?_, ?_, ?_⟩, fun hbuf => ?_⟩
    · exact runPseudo_of_load_transform (transform := .encc buf) rfl rfl hldiv (hok hbuf)
    · exact runPseudo_of_load_transform (transform := .decc buf) rfl rfl hldiv (hok hbuf)
    · exact runPseudo_of_load_transform (load := .ldivd []) (transform := .encc buf) rfl rfl rfl (hok hbuf)
    · exact runPseudo_of_single (i := .encc buf) rfl rfl (hok hbuf)
    · exact runPseudo_of_single (i := .decc buf) rfl rfl (hok hbuf)
    · exact runPseudo_of_single (i := .ence buf) rfl rfl (hok hbuf)
    · exact runPseudo_of_single (i := .dece buf) rfl rfl (hok hbuf)
    · have hstatus : commandStatus (Instr.encc buf).opcode (Instr.encc buf).len
          (succeed (.ldiv iv) s).kv = .invalidLength :=
        (congrArg _ hkv).trans (if_neg (Bool.eq_false_iff.mp hbuf))
      rw [runPseudo, Pseudo.expand, runSequence_cons_of_ok hldiv, runSequence_cons_of_error hstatus nofun]
      exact ⟨rfl, rfl⟩

end Sys2Proof.Machine
end

section
/-! PROOFS of the family 40_gf_and_tables.md, the ring laws of `gmul`. They come from one idea: a map that respects
`^` and `xtime` moves through `gmul` (`FieldLinear.map_gmul`), and `gmul · b` is such a map. -/

namespace Sys2Proof

/-! ## Maps that respect the field's addition and the multiplication by `x` -/

/-- `f` respects `^` (R70) and `xtime` (R72). -/
structure FieldLinear (f : Byte → Byte) : Prop where
  map_xor : ∀ a b, f (a ^^^ b) = f a ^^^ f b
  map_xtime : ∀ a, f (xtime a) = xtime (f a)

theorem FieldLinear.map_zero {f : Byte → Byte} (hf : FieldLinear f) : f 0#8 = 0#8 := by
  simpa using hf.map_xor 0#8 0#8

theorem xor_xor_xor_same (a b c : Byte) : (a ^^^ c) ^^^ (b ^^^ c) = a ^^^ b := by
  rw [BitVec.xor_comm b, BitVec.xor_assoc, ← BitVec.xor_assoc c, BitVec.xor_self, BitVec.zero_xor]

theorem xtime_xor (a b : Byte) : xtime (a ^^^ b) = xtime a ^^^ xtime b := by
  simp only [xtime, BitVec.getLsbD_xor, BitVec.shiftLeft_xor_distrib]
  cases a.getLsbD 7 <;> cases b.getLsbD 7
  case true.true => exact (xor_xor_xor_same _ _ _).symm
  all_goals simp <;> ac_rfl

theorem fieldLinear_xtime : FieldLinear xtime := ⟨xtime_xor, fun _ => rfl⟩

/-! ## `gmul` (R73) -/

/-- The loop of R73 after `n` rounds: the sum so far, and `p = xtime^n(a)`. -/
theorem foldl_gmulStep (a b : Byte) (n : Nat) :
    (List.range n).foldl (gmulStep b) (0, a) =
      ((List.range n).foldl (fun r i => if b.getLsbD i then r ^^^ xtime^[i] a else r) 0, xtime^[n] a) := by
  induction n with
  | zero => rfl
  | succ n ih => simp only [List.range_succ, List.foldl_append, ih, List.foldl_cons, List.foldl_nil, gmulStep,
      Function.iterate_succ_apply']

theorem gmul_eq_sum (a b : Byte) :
    gmul a b = (List.range 8).foldl (fun r i => if b.getLsbD i then r ^^^ xtime^[i] a else r) 0 :=
  congrArg Prod.fst (foldl_gmulStep a b 8)

theorem gmul_eq_foldl (a b : Byte) : gmul a b = ((List.range 8).foldl (gmulStep b) (0#8, a)).1 := rfl

/-- A map that respects `^` and `xtime` respects multiplication by `b`: it moves through each round of the loop. -/
theorem FieldLinear.map_gmul {f : Byte → Byte} (hf : FieldLinear f) (a b : Byte) : f (gmul a b) = gmul (f a) b := by
  have hround : ∀ (rp : Byte × Byte) (i : Nat), gmulStep b (rp.map f f) i = (gmulStep b rp i).map f f := by
    intro rp i
    cases hb : b.getLsbD i <;> simp [gmulStep, hb, hf.map_xor, hf.map_xtime]
  have hloop := List.foldl_hom (l := List.range 8) (init := (0#8, a)) (Prod.map f f) hround
  rw [Prod.map_apply, hf.map_zero] at hloop
  rw [gmul_eq_foldl, gmul_eq_foldl, hloop, Prod.map_fst]

theorem xor_gmul (a a' b : Byte) : gmul (a ^^^ a') b = gmul a b ^^^ gmul a' b := by
  have hround : ∀ (rp rq : Byte × Byte) (i : Nat),
      ((gmulStep b rp i).1 ^^^ (gmulStep b rq i).1, (gmulStep b rp i).2 ^^^ (gmulStep b rq i).2) =
        gmulStep b (rp.1 ^^^ rq.1, rp.2 ^^^ rq.2) i := by
    intro rp rq i
    cases hb : b.getLsbD i <;> simp [gmulStep, hb, xtime_xor]
    ac_rfl
  have hloop := List.foldl_hom₂ (List.range 8) (fun rp rq : Byte × Byte => (rp.1 ^^^ rq.1, rp.2 ^^^ rq.2))
    (gmulStep b) (gmulStep b) (gmulStep b) (0#8, a) (0#8, a') hround
  rw [BitVec.xor_self] at hloop
  simp only [gmul_eq_foldl, hloop]

theorem fieldLinear_gmul (b : Byte) : FieldLinear (gmul · b) :=
  ⟨fun a a' => xor_gmul a a' b, fun a => (fieldLinear_xtime.map_gmul a b).symm⟩

@[simp] theorem one_gmul : ∀ b : Byte, gmul 1#8 b = b := by decide +kernel

theorem gmul_right_comm (a b c : Byte) : gmul (gmul a b) c = gmul (gmul a c) b := (fieldLinear_gmul c).map_gmul a b

theorem gmul_comm (a b : Byte) : gmul a b = gmul b a := by simpa using gmul_right_comm 1#8 a b

theorem gmul_assoc (a b c : Byte) : gmul (gmul a b) c = gmul a (gmul b c) := by
  rw [gmul_comm a b, gmul_right_comm, gmul_comm]

theorem gmul_xor (a b c : Byte) : gmul a (b ^^^ c) = gmul a b ^^^ gmul a c := by
  rw [gmul_comm, xor_gmul, gmul_comm b, gmul_comm c]

theorem gmul_xtime (a b : Byte) : gmul a (xtime b) = xtime (gmul a b) := by
  rw [gmul_comm, ← fieldLinear_xtime.map_gmul, gmul_comm]

@[simp] theorem gmul_one (a : Byte) : gmul a 1#8 = a := by rw [gmul_comm, one_gmul]

@[simp] theorem gmul_zero (a : Byte) : gmul a 0#8 = 0#8 := by simpa using gmul_xor a 0#8 0#8

theorem gmul_two (a : Byte) : gmul a 0x02#8 = xtime a :=
  (gmul_xtime a 0x01#8).trans (congrArg xtime (gmul_one a))

theorem gmul_four (a : Byte) : gmul a 0x04#8 = xtime (xtime a) :=
  (gmul_xtime a 0x02#8).trans (congrArg xtime (gmul_two a))

theorem gmul_eight (a : Byte) : gmul a 0x08#8 = xtime (xtime (xtime a)) :=
  (gmul_xtime a 0x04#8).trans (congrArg xtime (gmul_four a))

/-- Settles O13, from commutativity and associativity of `gmul`, which follow from `gmul · b` respecting `^` and `xtime`. -/
theorem fieldProductLaws : Obligations.FieldProductLaws :=
  ⟨fun a b c => ⟨gmul_comm a b, gmul_assoc a b c, gmul_xor a b c, gmul_one a, one_gmul a, gmul_zero a⟩,
    gmul_eq_sum, by decide⟩

end Sys2Proof
end

section
/-! PROOFS of the family 40_gf_and_tables.md, the inverse and the tables. That `a^254` inverts `a` comes from `a^256 = a`, which
holds because `a ↦ a^256` respects `^` and `xtime`; that an inverse exists is read off the `SBOX` table. -/

namespace Sys2Proof

/-! ## `ginv` (R74) -/

/-- Powers of `a`, as repeated products with `a`, multiply by adding their exponents. -/
theorem gmul_iterate_gmul (a : Byte) (m n : Nat) :
    gmul ((gmul a)^[m] 1#8) ((gmul a)^[n] 1#8) = (gmul a)^[m + n] 1#8 := by
  induction m with
  | zero => simp
  | succ m ih => rw [Function.iterate_succ_apply', gmul_assoc, ih, Nat.succ_add, Function.iterate_succ_apply']

theorem gmul_self_eq_iterate (a : Byte) : gmul a a = (gmul a)^[2] 1#8 := congrArg (gmul a) (gmul_one a).symm

theorem ginv_eq_iterate (a : Byte) : ginv a = (gmul a)^[254] 1#8 := by
  simp only [ginv, gmul_self_eq_iterate a, gmul_iterate_gmul, Nat.reduceAdd]

/-- Squaring in the field. -/
def fieldSquare (a : Byte) : Byte := gmul a a

theorem fieldSquare_xor (a b : Byte) : fieldSquare (a ^^^ b) = fieldSquare a ^^^ fieldSquare b := by
  simp only [fieldSquare]
  rw [gmul_xor, xor_gmul, xor_gmul, gmul_comm b a, BitVec.xor_comm (gmul a b) (gmul b b), xor_xor_xor_same]

theorem fieldSquare_gmul (a b : Byte) : fieldSquare (gmul a b) = gmul (fieldSquare a) (fieldSquare b) := by
  simp only [fieldSquare]
  rw [gmul_assoc, ← gmul_assoc b, gmul_comm b a, gmul_assoc a b, ← gmul_assoc a]

/-- `a ↦ a^256` respects `^` because squaring does, and `xtime` because `x^256 = x`. -/
theorem fieldLinear_fieldSquare_iterate : FieldLinear fieldSquare^[8] where
  map_xor := Function.Semiconj₂.iterate fieldSquare_xor 8
  map_xtime a := by
    have hmul : fieldSquare^[8] (gmul a 0x02#8) = gmul (fieldSquare^[8] a) (fieldSquare^[8] 0x02#8) :=
      Function.Semiconj₂.iterate fieldSquare_gmul 8 a 0x02#8
    have hx : fieldSquare^[8] 0x02#8 = 0x02#8 := by decide +kernel
    rw [hx, gmul_two, gmul_two] at hmul
    exact hmul

theorem fieldSquare_iterate_eq (a : Byte) (k : Nat) : fieldSquare^[k] a = (gmul a)^[2 ^ k] 1#8 := by
  induction k with
  | zero => exact (gmul_one a).symm
  | succ k ih => rw [Function.iterate_succ_apply', ih, fieldSquare, gmul_iterate_gmul, pow_succ, mul_two]

/-- `a^256 = a`, with `a^256` as eight squarings. -/
theorem fieldSquare_iterate_eight (a : Byte) : fieldSquare^[8] a = a := by
  have hone : fieldSquare^[8] 0x01#8 = 0x01#8 := by decide +kernel
  simpa [hone] using fieldLinear_fieldSquare_iterate.map_gmul 0x01#8 a

/-- `a^254 * a^2 = a^256`. -/
theorem ginv_gmul_self (a : Byte) : gmul (ginv a) (gmul a a) = a := by
  calc gmul (ginv a) (gmul a a) = (gmul a)^[256] 1#8 := by rw [ginv_eq_iterate, gmul_self_eq_iterate, gmul_iterate_gmul]
    _ = fieldSquare^[8] a := (fieldSquare_iterate_eq a 8).symm
    _ = a := fieldSquare_iterate_eight a

theorem eq_ginv_of_gmul_eq_one {a b : Byte} (h : gmul a b = 1#8) : b = ginv a := by
  have : Std.Associative gmul := ⟨gmul_assoc⟩
  have : Std.Commutative gmul := ⟨gmul_comm⟩
  calc b = gmul (gmul a b) b := by rw [h, one_gmul]
    _ = gmul (gmul (gmul (ginv a) (gmul a a)) b) b := by rw [ginv_gmul_self]
    _ = gmul (ginv a) (gmul (gmul a b) (gmul a b)) := by ac_rfl
    _ = ginv a := by rw [h, gmul_one, gmul_one]

/-- The inverse that the table of R75 contains, before the affine map. -/
theorem gmul_invaffine_sbox : ∀ {a : Byte}, a ≠ 0#8 → gmul a (invaffine (sbox a)) = 1#8 := by decide +kernel

theorem invaffine_sbox (a : Byte) : invaffine (sbox a) = ginv a := by
  by_cases ha : a = 0#8
  · subst ha; decide +kernel
  · exact eq_ginv_of_gmul_eq_one (gmul_invaffine_sbox ha)

theorem gmul_ginv {a : Byte} (ha : a ≠ 0#8) : gmul a (ginv a) = 1#8 :=
  invaffine_sbox a ▸ gmul_invaffine_sbox ha

theorem gmul_eq_one_iff {a b : Byte} (ha : a ≠ 0#8) : gmul a b = 1#8 ↔ b = ginv a :=
  ⟨eq_ginv_of_gmul_eq_one, fun hb => hb ▸ gmul_ginv ha⟩

@[simp] theorem ginv_zero : ginv 0#8 = 0#8 := by decide

@[simp] theorem ginv_ginv (a : Byte) : ginv (ginv a) = a := by
  by_cases ha : a = 0#8
  · simp [ha]
  · have hprod := gmul_ginv ha
    have hinv : ginv a ≠ 0#8 := fun h0 => by simp [h0] at hprod
    exact ((gmul_eq_one_iff hinv).mp ((gmul_comm _ _).trans hprod)).symm

/-- Settles O14: the inverse is unique by `a^254 * a^2 = a`, and it exists by the table. -/
theorem fieldInverse : Obligations.FieldInverse :=
  ⟨fun _ ha _ => gmul_eq_one_iff ha, ginv_eq_iterate, by decide +kernel⟩

/-! ## The tables (R75 to R79) and the constant multipliers (R80) -/

theorem affine_invaffine : ∀ b : Byte, affine (invaffine b) = b := by decide +kernel

theorem sbox_eq (a : Byte) : sbox a = affine (ginv a) := by rw [← invaffine_sbox, affine_invaffine]

theorem invSbox_sbox : ∀ a : Byte, invSbox (sbox a) = a := by decide +kernel

theorem sbox_invSbox : ∀ a : Byte, sbox (invSbox a) = a :=
  have hleft : Function.LeftInverse invSbox sbox := invSbox_sbox
  hleft.rightInverse_of_surjective (Finite.surjective_of_injective hleft.injective)

theorem sbox_ne_self : ∀ a : Byte, sbox a ≠ a ∧ sbox a ≠ a ^^^ 0xFF := by decide +kernel

theorem getLsbD_rotateLeft_of_lt (b : Byte) {r i : Nat} (hr : r < 8) (hi : i < 8) :
    (b.rotateLeft r).getLsbD i = b.getLsbD ((i + (8 - r)) % 8) := by
  rw [BitVec.getLsbD_rotateLeft, Nat.mod_eq_of_lt hr, decide_eq_true hi, Bool.true_and]
  by_cases hir : i < r
  · rw [decide_eq_true hir, cond_true, show (i + (8 - r)) % 8 = 8 - r + i by omega]
  · rw [decide_eq_false hir, cond_false, show (i + (8 - r)) % 8 = i - r by omega]

theorem getLsbD_affine (b : Byte) (i : Fin 8) :
    (affine b).getLsbD i.val = (b.getLsbD i.val ^^ b.getLsbD ((i.val + 4) % 8) ^^ b.getLsbD ((i.val + 5) % 8) ^^
      b.getLsbD ((i.val + 6) % 8) ^^ b.getLsbD ((i.val + 7) % 8) ^^ (0x63 : Byte).getLsbD i.val) := by
  simp only [affine, BitVec.getLsbD_xor, getLsbD_rotateLeft_of_lt, i.isLt, Nat.reduceLT, Nat.reduceSub,
    Bool.xor_assoc, Bool.xor_left_comm, Bool.xor_comm]

theorem invSbox_eq (a : Byte) : invSbox a = ginv (invaffine a) := by
  calc invSbox a = ginv (ginv (invSbox a)) := (ginv_ginv _).symm
    _ = ginv (invaffine a) := by rw [← invaffine_sbox (invSbox a), sbox_invSbox]

/-- Settles O15: `INV_SBOX` undoes `SBOX`, and the algebraic forms follow from the inverse that `SBOX` contains. -/
theorem substitutionTables : Obligations.SubstitutionTables := fun a =>
  ⟨sbox_eq a, fun i => by rw [sbox_eq, getLsbD_affine], (sbox_ne_self a).1, (sbox_ne_self a).2, invSbox_sbox a,
    sbox_invSbox a, invSbox_eq a⟩

/-! ### Round constants and multipliers -/

theorem m2_eq_gmul (a : Byte) : m2 a = gmul a 0x02 := (gmul_two a).symm

theorem m3_eq_gmul (a : Byte) : m3 a = gmul a 0x03 := by
  change m3 a = gmul a (0x02#8 ^^^ 0x01#8)
  rw [gmul_xor, gmul_two, gmul_one, m3]

theorem m9_eq_gmul (a : Byte) : m9 a = gmul a 0x09 := by
  change m9 a = gmul a (0x08#8 ^^^ 0x01#8)
  rw [gmul_xor, gmul_eight, gmul_one, m9]

theorem m11_eq_gmul (a : Byte) : m11 a = gmul a 0x0B := by
  change m11 a = gmul a (0x08#8 ^^^ 0x02#8 ^^^ 0x01#8)
  rw [gmul_xor, gmul_xor, gmul_eight, gmul_two, gmul_one, m11]

theorem m13_eq_gmul (a : Byte) : m13 a = gmul a 0x0D := by
  change m13 a = gmul a (0x08#8 ^^^ 0x04#8 ^^^ 0x01#8)
  rw [gmul_xor, gmul_xor, gmul_eight, gmul_four, gmul_one, m13]

theorem m14_eq_gmul (a : Byte) : m14 a = gmul a 0x0E := by
  change m14 a = gmul a (0x08#8 ^^^ 0x04#8 ^^^ 0x02#8)
  rw [gmul_xor, gmul_xor, gmul_eight, gmul_four, gmul_two, m14]

/-- Settles O16: each multiplier is `gmul` by a sum of `0x01`, `0x02`, `0x04` and `0x08`. -/
theorem constantsAndMultipliers : Obligations.ConstantsAndMultipliers := by
  refine ⟨⟨rfl, fun i h2 h10 => ?_, rfl⟩, fun a =>
    ⟨m2_eq_gmul a, m3_eq_gmul a, m9_eq_gmul a, m11_eq_gmul a, m13_eq_gmul a, m14_eq_gmul a⟩⟩
  interval_cases i <;> rfl

end Sys2Proof
end

section
/-! PROOFS of the family 41_key_schedule.md. Each claim about the schedule is read off one recurrence of the 44 words: a
word step appends one word computed from earlier ones, and the steps after it change none of them. -/

namespace Sys2Proof

/-! ## The words (R95) -/

/-- Each word step appends one word. -/
@[simp] theorem length_foldl_keyStep (is : List Nat) (ws : List Word) :
    (is.foldl keyStep ws).length = ws.length + is.length := by
  induction is generalizing ws with
  | nil => rfl
  | cons i is ih => rw [List.foldl_cons, ih, keyStep]; simp; omega

/-- The word of step `i` comes from words before it, so the steps that append to those do not change it. -/
theorem nextWord_foldl_keyStep (is : List Nat) {ws : List Word} {i : Nat} (hpos : 0 < i) (hi : i ≤ ws.length) :
    nextWord (is.foldl keyStep ws) i = nextWord ws i := by
  rw [nextWord, nextWord, getD_foldl_keyStep is ws (by omega), getD_foldl_keyStep is ws (by omega)]

/-- The step at the end of the words appends the word that it computes from the finished list as well. -/
theorem getD_foldl_keyStep_cons (is : List Nat) {ws : List Word} (hpos : 0 < ws.length) :
    ((ws.length :: is).foldl keyStep ws).getD ws.length Word.zero =
      nextWord ((ws.length :: is).foldl keyStep ws) ws.length := by
  rw [nextWord_foldl_keyStep _ hpos le_rfl, List.foldl_cons, getD_foldl_keyStep _ _ (by simp [keyStep])]
  simp [keyStep]

/-- R95's second loop, cut before the step of `W[j+4]`. -/
theorem keyWords_eq_foldl_cons (k : Block) {j : Nat} (hj : j < 40) :
    ∃ ws is, ws.length = j + 4 ∧ keyWords k = ((j + 4) :: is).foldl keyStep ws := by
  obtain ⟨m, hm⟩ : ∃ m, 40 = j + (m + 1) := ⟨39 - j, by omega⟩
  refine ⟨(List.range' 4 j).foldl keyStep [k.c0, k.c1, k.c2, k.c3], List.range' (j + 5) m, ?_, ?_⟩
  · simp [Nat.add_comm]
  · rw [keyWords, hm, ← List.range'_append_1, List.foldl_append, List.range'_succ, Nat.add_comm 4 j]

/-- `W[j+4]` is the word that step `j+4` computes from the 44 words themselves. -/
theorem keyWords_getD_eq_nextWord (k : Block) {j : Nat} (hj : j < 40) :
    (keyWords k).getD (j + 4) Word.zero = nextWord (keyWords k) (j + 4) := by
  obtain ⟨ws, is, hlen, hsplit⟩ := keyWords_eq_foldl_cons k hj
  rw [hsplit, ← hlen]
  exact getD_foldl_keyStep_cons is (by omega)

/-! ## The schedule as words and as round keys (R12, R95) -/

theorem Schedule.get_scheduleOfWords (ws : List Word) (r : Fin 11) :
    (scheduleOfWords ws).get r = roundKeyOfWords ws r.val := by
  fin_cases r <;> rfl

theorem column_roundKeyOfWords (ws : List Word) (r : Nat) (c : Fin 4) :
    (roundKeyOfWords ws r).column c = ws.getD (4 * r + c.val) Word.zero := by
  fin_cases c <;> rfl

/-- The word view of the schedule is the list of words it was made from. -/
theorem keyExpand_word (k : Block) (i : Fin 44) : (keyExpand k).word i = (keyWords k).getD i.val Word.zero := by
  rw [Schedule.word, keyExpand, Schedule.get_scheduleOfWords, column_roundKeyOfWords, Nat.div_add_mod]

/-- The first four words of a schedule are the columns of `RK[0]`. -/
theorem Schedule.word_of_lt_four (rk : Schedule) (j : Fin 4) : rk.word ⟨j.val, by omega⟩ = (rk.get 0).column j := by
  fin_cases j <;> rfl

/-- Settles O17: the words of the schedule are those of `keyWords`, and each obeys its own word step. -/
theorem keyExpansionRecurrence : Obligations.KeyExpansionRecurrence := by
  refine fun k => ⟨keyExpand_get_zero k, fun j => ?firstWords, fun j => ?step⟩
  case firstWords => rw [Schedule.word_of_lt_four, keyExpand_get_zero]
  case step =>
    simp only [keyExpand_word]
    exact keyWords_getD_eq_nextWord k j.isLt

/-! ## Round key by round key (R98) -/

/-- `W[4r+4]`, the first word of the next round key, takes the special step (R98, `i = 4r+4`). -/
theorem keyWords_getD_special (k : Block) {r : Nat} (hr : r < 10) :
    (keyWords k).getD (4 * r + 4) Word.zero =
      ((keyWords k).getD (4 * r) Word.zero).xor
        (specialStep ((keyWords k).getD (4 * r + 3) Word.zero) (r + 1)) := by
  rw [keyWords_getD_eq_nextWord k (by omega), nextWord, if_pos (by omega), show (4 * r + 4) / 4 = r + 1 by omega]
  rfl

/-- The other three words of the next round key take the plain step (R98, `i = 4r+4+c`). -/
theorem keyWords_getD_plain (k : Block) {r c : Nat} (hr : r < 10) (hc : 0 < c) (hc4 : c < 4) :
    (keyWords k).getD (4 * r + c + 4) Word.zero =
      ((keyWords k).getD (4 * r + c) Word.zero).xor ((keyWords k).getD (4 * r + c + 3) Word.zero) := by
  rw [keyWords_getD_eq_nextWord k (by omega), nextWord, if_neg (by omega)]
  rfl

/-- Settles O18: `RK[r+1]` is words `4r+4` to `4r+7`, the special step and then three plain ones. -/
theorem nextRoundKeyRecurrence : Obligations.NextRoundKeyRecurrence := by
  intro k r
  have h0 := keyWords_getD_special k r.isLt
  have h1 := keyWords_getD_plain k r.isLt (c := 1) (by decide) (by decide)
  have h2 := keyWords_getD_plain k r.isLt (c := 2) (by decide) (by decide)
  have h3 := keyWords_getD_plain k r.isLt (c := 3) (by decide) (by decide)
  simp only [Nat.add_assoc, Nat.reduceAdd] at h1 h2 h3
  simp only [keyExpand, Schedule.get_scheduleOfWords, roundKeyOfWords, nextRoundKey, Fin.val_succ, Fin.val_castSucc,
    Nat.mul_succ, Nat.add_assoc, Nat.reduceAdd, h0, h1, h2, h3]

end Sys2Proof

namespace Sys2Proof.Machine

/-! ## KEYEXP (R99, R100) -/

/-- KEYEXP where its only check passes (R99). -/
theorem execKeyexp_of_ok {p : List Byte} (s : State) (hp : p.length = 16) :
    execKeyexp p s = .next (State.finish { s with rk := keyExpand (Block.ofBytes p), kv := true } []) :=
  if_neg (not_not.mpr hp)

/-- Settles O28: 16 key bytes pass the only check of KEYEXP, whose effect is the derived schedule and `KV`. -/
theorem keyexpDerivesSchedule : Obligations.KeyexpDerivesSchedule := fun s _ hp => execKeyexp_of_ok s hp

/-- Settles O36: KEYEXP needs no key, so a wrong `LEN` is all its check can find. -/
theorem invalidKeySizeError : Obligations.InvalidKeySizeError :=
  fun s _ hp => exec_of_wrong_len s rfl (beq_false_of_ne hp)

end Sys2Proof.Machine
end

section
/-! PROOFS of the family 42_encrypt.md, the column mixes. Each is a map of columns that respects `^` and the rotation of a
column, so it is determined by what it does to a column with one byte in its first row. -/

namespace Sys2Proof

/-! ## Maps of columns with a circulant matrix -/

/-- `f` respects `^` and the rotation of a column by one row: it is the product with a circulant matrix. -/
structure CirculantLinear (f : Word → Word) : Prop where
  map_xor : ∀ a b, f (a.xor b) = (f a).xor (f b)
  map_rotWord : ∀ a, f (rotWord a) = rotWord (f a)

theorem CirculantLinear.comp {f g : Word → Word} (hf : CirculantLinear f) (hg : CirculantLinear g) :
    CirculantLinear (f ∘ g) where
  map_xor a b := by simp only [Function.comp_apply, hg.map_xor, hf.map_xor]
  map_rotWord a := by simp only [Function.comp_apply, hg.map_rotWord, hf.map_rotWord]

/-- A column is the sum of its four bytes, each put in the first row and rotated to its own. -/
theorem Word.eq_xor_rotWord (a : Word) :
    a = (Word.xor ⟨a.w0, 0, 0, 0⟩ (rotWord (rotWord (rotWord ⟨a.w1, 0, 0, 0⟩)))).xor
      ((rotWord (rotWord ⟨a.w2, 0, 0, 0⟩)).xor (rotWord ⟨a.w3, 0, 0, 0⟩)) := by
  ext1 <;> simp [Word.xor, rotWord]

/-- A circulant map that keeps the columns with one byte in the first row keeps every column. -/
theorem CirculantLinear.eq_self {f : Word → Word} (hf : CirculantLinear f)
    (hfirst : ∀ x : Byte, f ⟨x, 0, 0, 0⟩ = ⟨x, 0, 0, 0⟩) (a : Word) : f a = a := by
  rw [Word.eq_xor_rotWord a]
  simp only [hf.map_xor, hf.map_rotWord, hfirst]

/-! ## One column (R108, R123) -/

theorem mixColumn_eq_gmul (a : Word) :
    mixColumn a =
      ⟨gmul a.w0 0x02 ^^^ gmul a.w1 0x03 ^^^ a.w2 ^^^ a.w3, a.w0 ^^^ gmul a.w1 0x02 ^^^ gmul a.w2 0x03 ^^^ a.w3,
       a.w0 ^^^ a.w1 ^^^ gmul a.w2 0x02 ^^^ gmul a.w3 0x03, gmul a.w0 0x03 ^^^ a.w1 ^^^ a.w2 ^^^ gmul a.w3 0x02⟩ := by
  simp only [mixColumn, m2_eq_gmul, m3_eq_gmul]

theorem invMixColumn_eq_gmul (a : Word) :
    invMixColumn a =
      ⟨gmul a.w0 0x0E ^^^ gmul a.w1 0x0B ^^^ gmul a.w2 0x0D ^^^ gmul a.w3 0x09,
       gmul a.w0 0x09 ^^^ gmul a.w1 0x0E ^^^ gmul a.w2 0x0B ^^^ gmul a.w3 0x0D,
       gmul a.w0 0x0D ^^^ gmul a.w1 0x09 ^^^ gmul a.w2 0x0E ^^^ gmul a.w3 0x0B,
       gmul a.w0 0x0B ^^^ gmul a.w1 0x0D ^^^ gmul a.w2 0x09 ^^^ gmul a.w3 0x0E⟩ := by
  simp only [invMixColumn, m9_eq_gmul, m11_eq_gmul, m13_eq_gmul, m14_eq_gmul]

theorem circulantLinear_mixColumn : CirculantLinear mixColumn where
  map_xor a b := by
    simp only [mixColumn_eq_gmul, Word.xor, xor_gmul]
    ext1 <;> ac_rfl
  map_rotWord a := by
    simp only [mixColumn_eq_gmul, rotWord]
    ext1 <;> ac_rfl

theorem circulantLinear_invMixColumn : CirculantLinear invMixColumn where
  map_xor a b := by
    simp only [invMixColumn_eq_gmul, Word.xor, xor_gmul]
    ext1 <;> ac_rfl
  map_rotWord a := by
    simp only [invMixColumn_eq_gmul, rotWord]
    ext1 <;> ac_rfl

@[simp] theorem invMixColumn_mixColumn (a : Word) : invMixColumn (mixColumn a) = a :=
  (circulantLinear_invMixColumn.comp circulantLinear_mixColumn).eq_self (by decide +kernel) a

@[simp] theorem mixColumn_invMixColumn (a : Word) : mixColumn (invMixColumn a) = a :=
  (circulantLinear_mixColumn.comp circulantLinear_invMixColumn).eq_self (by decide +kernel) a

/-- The coefficients of a row add up to `0x01`. -/
theorem mixColumn_of_equal_bytes (a : Byte) : mixColumn ⟨a, a, a, a⟩ = ⟨a, a, a, a⟩ := by
  have hsum : m2 a ^^^ m3 a ^^^ a ^^^ a = a := by simp [m2, m3]
  ext1 <;> refine Eq.trans ?_ hsum <;> simp only [mixColumn] <;> ac_rfl

theorem invMixColumn_of_equal_bytes (a : Byte) : invMixColumn ⟨a, a, a, a⟩ = ⟨a, a, a, a⟩ := by
  simpa only [mixColumn_of_equal_bytes] using invMixColumn_mixColumn ⟨a, a, a, a⟩

/-! ## The four columns of a block -/

theorem Block.mapColumns_xor {f : Word → Word} (hf : CirculantLinear f) (s t : Block) :
    (s.xor t).mapColumns f = (s.mapColumns f).xor (t.mapColumns f) := by
  simp only [Block.mapColumns, Block.xor, hf.map_xor]

theorem mixColumns_xor (s t : Block) : mixColumns (s.xor t) = (mixColumns s).xor (mixColumns t) :=
  Block.mapColumns_xor circulantLinear_mixColumn s t

theorem invMixColumns_xor (s t : Block) : invMixColumns (s.xor t) = (invMixColumns s).xor (invMixColumns t) :=
  Block.mapColumns_xor circulantLinear_invMixColumn s t

@[simp] theorem invMixColumns_mixColumns (s : Block) : invMixColumns (mixColumns s) = s := by
  simp [mixColumns, invMixColumns, Block.mapColumns]

@[simp] theorem mixColumns_invMixColumns (s : Block) : mixColumns (invMixColumns s) = s := by
  simp [mixColumns, invMixColumns, Block.mapColumns]

theorem mixColumns_zero : mixColumns Block.zero = Block.zero := by decide

/-- Settles O20: both mixes are circulant maps, and undo each other on a column with one byte in its first row. -/
theorem mixColumnsLaws : Obligations.MixColumnsLaws :=
  ⟨fun a => ⟨mixColumn_eq_gmul a, invMixColumn_eq_gmul a⟩, fun _ => ⟨rfl, rfl⟩,
    fun s t => ⟨mixColumns_xor s t, invMixColumns_xor s t, invMixColumns_mixColumns s, mixColumns_invMixColumns s⟩,
    mixColumns_zero, fun a => ⟨mixColumn_of_equal_bytes a, invMixColumn_of_equal_bytes a⟩, by decide, by decide⟩

end Sys2Proof
end

section
/-! PROOFS of the family 42_encrypt.md, the substitutions and the row shifts: each byte by byte, and undone by its inverse. -/

namespace Sys2Proof

/-! ## The substitutions (R106, R121) -/

@[simp] theorem get_subBytes (s : Block) (n : Fin 16) : (subBytes s).get n = sbox (s.get n) :=
  Block.get_mapBytes sbox s n

@[simp] theorem get_invSubBytes (s : Block) (n : Fin 16) : (invSubBytes s).get n = invSbox (s.get n) :=
  Block.get_mapBytes invSbox s n

@[simp] theorem invSubBytes_subBytes (s : Block) : invSubBytes (subBytes s) = s :=
  Block.ext_get fun n => by rw [get_invSubBytes, get_subBytes, invSbox_sbox]

@[simp] theorem subBytes_invSubBytes (s : Block) : subBytes (invSubBytes s) = s :=
  Block.ext_get fun n => by rw [get_subBytes, get_invSubBytes, sbox_invSbox]

/-! ## The row shifts (R107, R122) -/

/-- `SR[n] = 5n mod 16`: row `r`, column `c + r` is `5(r + 4c)`, modulo 16. -/
theorem get_shiftRows (s : Block) (n : Fin 16) : (shiftRows s).get n = s.get ⟨5 * n.val % 16, by omega⟩ := by
  rw [shiftRows, Block.get_ofFn, Block.cell_eq_get]
  congr 2
  simp only [rowOf, colOf, Fin.val_add]
  omega

/-- `ISR[n] = 13n mod 16`: row `r`, column `c - r` is `13(r + 4c)`, modulo 16. -/
theorem get_invShiftRows (s : Block) (n : Fin 16) : (invShiftRows s).get n = s.get ⟨13 * n.val % 16, by omega⟩ := by
  rw [invShiftRows, Block.get_ofFn, Block.cell_eq_get]
  congr 2
  simp only [rowOf, colOf, Fin.val_sub]
  omega

/-- `5 * 13 = 65` is 1 modulo 16. -/
@[simp] theorem invShiftRows_shiftRows (s : Block) : invShiftRows (shiftRows s) = s := by
  refine Block.ext_get fun n => ?_
  have hindex : 5 * (13 * n.val % 16) % 16 = n.val := by omega
  rw [get_invShiftRows, get_shiftRows]
  exact congrArg s.get (Fin.ext hindex)

@[simp] theorem shiftRows_invShiftRows (s : Block) : shiftRows (invShiftRows s) = s := by
  refine Block.ext_get fun n => ?_
  have hindex : 13 * (5 * n.val % 16) % 16 = n.val := by omega
  rw [get_shiftRows, get_invShiftRows]
  exact congrArg s.get (Fin.ext hindex)

/-- Settles O19: the tables are inverse to each other, and so are 5 and 13 modulo 16. -/
theorem substitutionAndShiftInverses : Obligations.SubstitutionAndShiftInverses := fun s n =>
  ⟨get_subBytes s n, get_invSubBytes s n, get_shiftRows s n, get_invShiftRows s n, invSubBytes_subBytes s,
    subBytes_invSubBytes s, invShiftRows_shiftRows s, shiftRows_invShiftRows s⟩

end Sys2Proof
end

section
/-! PROOFS of the family 42_encrypt.md, the commands of one block: ENCB and DECB on a block, and the error of a wrong `LEN`. -/

namespace Sys2Proof.Machine

/-- What a successful single-block transform leaves (R113, R128): its answer is one block, `ST` and `RND` are anything. -/
theorem finish_releaseRound_block (s : State) (b : Block) :
    s.releaseRound.finish b.bytes =
      { s with
        err := 0x00, st := Config.freeSt s.draws, rnd := Config.freeRnd s.draws, draws := s.draws + 1
        responses := s.responses ++ [[0x00, 0, 0, 0, 0x10] ++ b.bytes] } := by
  rw [← encodeResponse_block]
  rfl

/-- Settles O29: with a key and 16 bytes both checks pass. -/
theorem singleBlockTransforms : Obligations.SingleBlockTransforms :=
  fun s _ hk hp =>
    ⟨⟨_, _, _, (execEncb_of_ok hk hp).trans (congrArg _ (finish_releaseRound_block s _))⟩,
      ⟨_, _, _, (execDecb_of_ok hk hp).trans (congrArg _ (finish_releaseRound_block s _))⟩⟩

/-- A command with the key it needs and a wrong `LEN` ends with the error of its length check (R52, R169). -/
theorem commandStatus_of_wrong_len {op : Opcode} {len : Nat} {kv : Bool} (hkey : op.needsKey = true → kv = true)
    (hlen : op.lenOk len = false) : commandStatus op len kv = op.lenError := by
  cases hop : op.needsKey with
  | false => simp [commandStatus, hop, hlen]
  | true => simp [commandStatus, hkey hop, hlen]

/-- A command with the key it needs and a wrong `LEN` is the error entry of its length check (R52, R170). -/
theorem exec_of_wrong_len_of_key {i : Instr} {s : State} (hkey : i.opcode.needsKey = true → s.kv = true)
    (hlen : i.opcode.lenOk i.len = false) : exec i s = .next (s.raise i.opcode.lenError) := by
  have hstatus := commandStatus_of_wrong_len hkey hlen
  rw [exec_of_error (hstatus ▸ lenError_ne_ok _), hstatus]

/-- Settles O38: the three commands ask for 16 bytes, and the two transforms have their key. -/
theorem invalidBlockSizeError : Obligations.InvalidBlockSizeError := by
  intro s p hp
  have hlen : (p.length == 16) = false := beq_false_of_ne hp
  refine ⟨fun hk i hi => ?_, exec_of_wrong_len s rfl hlen⟩
  simp only [List.mem_cons, List.not_mem_nil, or_false] at hi
  obtain rfl | rfl := hi
  · exact exec_of_wrong_len_of_key (fun _ => hk) hlen
  · exact exec_of_wrong_len_of_key (fun _ => hk) hlen

end Sys2Proof.Machine
end

section
/-! PROOFS of the family 43_decrypt.md: decryption applies the inverses of the rounds in the opposite order. The blocks of
the two directions agree up to one substitution and row shift, with which the next round begins. -/

namespace Sys2Proof

/-! ## One round (R110, R124) -/

/-- An inverse round, after the substitution of the following round, takes off the round with the same key. -/
theorem decRound_encRound (s k : Block) :
    decRound (shiftRows (subBytes (encRound s k))) k = shiftRows (subBytes s) := by
  simp [decRound, encRound, addRoundKey]

theorem encRound_decRound (s k : Block) :
    encRound (invSubBytes (invShiftRows (decRound s k))) k = invSubBytes (invShiftRows s) := by
  simp [decRound, encRound, addRoundKey]

/-! ## The nine full rounds (R111, R126) -/

theorem reverse_encRounds : encRounds.reverse = decRounds := rfl

theorem reverse_decRounds : decRounds.reverse = encRounds := rfl

/-- If `g` takes `f` off under `h`, key by key, then a run of `g` over the keys in reverse order takes a run of `f` off. -/
theorem foldl_reverse_foldl {α β : Type} {f g : β → α → β} {h : β → β} (hround : ∀ s r, g (h (f s r)) r = h s)
    (rounds : List α) (s : β) : rounds.reverse.foldl g (h (rounds.foldl f s)) = h s := by
  induction rounds generalizing s with
  | nil => rfl
  | cons r rounds ih => simp only [List.reverse_cons, List.foldl_append, List.foldl_cons, List.foldl_nil, ih, hround]

theorem foldl_decRound_foldl_encRound (rk : Schedule) (s : Block) :
    decRounds.foldl (fun st r => decRound st (rk.get r))
      (shiftRows (subBytes (encRounds.foldl (fun st r => encRound st (rk.get r)) s))) = shiftRows (subBytes s) :=
  reverse_encRounds ▸
    foldl_reverse_foldl (h := fun st => shiftRows (subBytes st)) (fun st r => decRound_encRound st (rk.get r)) encRounds s

theorem foldl_encRound_foldl_decRound (rk : Schedule) (s : Block) :
    encRounds.foldl (fun st r => encRound st (rk.get r))
      (invSubBytes (invShiftRows (decRounds.foldl (fun st r => decRound st (rk.get r)) s))) =
        invSubBytes (invShiftRows s) :=
  reverse_decRounds ▸
    foldl_reverse_foldl (h := fun st => invSubBytes (invShiftRows st)) (fun st r => encRound_decRound st (rk.get r))
      decRounds s

/-! ## The block (R127) -/

theorem decryptBlock_encryptBlock (rk : Schedule) (b : Block) : decryptBlock rk (encryptBlock rk b) = b := by
  simp [decryptBlock, encryptBlock, encFinalRound, decFinalRound, addRoundKey, foldl_decRound_foldl_encRound]

theorem encryptBlock_decryptBlock (rk : Schedule) (b : Block) : encryptBlock rk (decryptBlock rk b) = b := by
  simp [decryptBlock, encryptBlock, encFinalRound, decFinalRound, addRoundKey, foldl_encRound_foldl_decRound]

/-- Settles O21: the first and last key additions and the final round cancel around the nine full rounds. -/
theorem blockRoundTrip : Obligations.BlockRoundTrip := fun rk b =>
  ⟨decryptBlock_encryptBlock rk b, encryptBlock_decryptBlock rk b⟩

end Sys2Proof
end

section
/-! PROOFS of the family 44_chaining.md, the functions on buffers. What decryption makes of each block is an equation; encryption
is its solution, since decryption undoes encryption. -/

namespace Sys2Proof

/-! ## Blocks -/

/-- Only the zero block changes nothing (R7). -/
theorem Block.xor_eq_left_iff {a b : Block} : a.xor b = a ↔ b = Block.zero := by
  constructor
  · intro h
    calc b = (b.xor a).xor a := (Block.xor_xor_self b a).symm
      _ = Block.zero := by rw [Block.xor_comm b a, h, Block.xor_self]
  · rintro rfl
    exact Block.xor_zero a

theorem Block.xor_left_injective (b : Block) : Function.Injective fun a : Block => a.xor b :=
  Function.LeftInverse.injective (g := fun a => a.xor b) fun a => Block.xor_xor_self a b

theorem encryptBlock_injective (rk : Schedule) : Function.Injective (encryptBlock rk) :=
  Function.LeftInverse.injective (decryptBlock_encryptBlock rk)

theorem decryptBlock_injective (rk : Schedule) : Function.Injective (decryptBlock rk) :=
  Function.LeftInverse.injective (encryptBlock_decryptBlock rk)

theorem getElem?_blocks {buf : List Byte} {i : Nat} (h : i < buf.length / 16) : (blocks buf)[i]? = some (blockAt buf i) := by
  simp [blocks, h]

theorem blockAt_joinBlocks {bs : List Block} {i : Nat} {b : Block} (h : bs[i]? = some b) : blockAt (joinBlocks bs) i = b := by
  obtain ⟨hi, -⟩ := List.getElem?_eq_some_iff.mp h
  have hblock := getElem?_blocks (buf := joinBlocks bs) (i := i) (by simpa using hi)
  rw [blocks_joinBlocks, h] at hblock
  exact (Option.some.inj hblock).symm

theorem length_div_pos {buf : List Byte} (hne : buf ≠ []) (hmod : buf.length % 16 = 0) : 0 < buf.length / 16 := by
  have := List.length_pos_of_ne_nil hne
  omega

/-! ## The stateless path (O27) -/

theorem blockAt_encryptEcb (rk : Schedule) {buf : List Byte} {i : Nat} (h : i < buf.length / 16) :
    blockAt (encryptEcb rk buf) i = encryptBlock rk (blockAt buf i) :=
  blockAt_joinBlocks (by rw [List.getElem?_map, getElem?_blocks h, Option.map_some])

theorem blockAt_decryptEcb (rk : Schedule) {buf : List Byte} {i : Nat} (h : i < buf.length / 16) :
    blockAt (decryptEcb rk buf) i = decryptBlock rk (blockAt buf i) :=
  blockAt_joinBlocks (by rw [List.getElem?_map, getElem?_blocks h, Option.map_some])

/-- Block transforms that undo each other do so on a whole buffer. -/
theorem joinBlocks_map_map {f g : Block → Block} (hfg : Function.LeftInverse f g) {buf : List Byte}
    (h : buf.length % 16 = 0) : joinBlocks ((blocks (joinBlocks ((blocks buf).map g))).map f) = buf := by
  rw [blocks_joinBlocks, List.map_map, hfg.comp_eq_id, List.map_id, joinBlocks_blocks h]

/-- Settles O27: the blocks of a joined buffer are those of its parts, and the block transforms undo each other. -/
theorem statelessPathLaws : Obligations.StatelessPathLaws := by
  refine fun rk a b ha hb => ⟨?_, ?_, joinBlocks_map_map (decryptBlock_encryptBlock rk) ha,
    joinBlocks_map_map (encryptBlock_decryptBlock rk) ha, fun i hi => ⟨blockAt_encryptEcb rk hi, blockAt_decryptEcb rk hi⟩⟩
  · rw [encryptEcb, blocks_append ha hb, List.map_append, joinBlocks_append, encryptEcb, encryptEcb]
  · rw [decryptEcb, blocks_append ha hb, List.map_append, joinBlocks_append, decryptEcb, decryptEcb]

/-! ## The chained loops block by block (R137, R139) -/

/-- The chaining value that block `i` meets when the ciphertext blocks are `cs`: the IV, then the ciphertext block before. With
`i` the number of blocks it is the chaining value returned. -/
def cvAt (iv : Block) (cs : List Block) (i : Nat) : Block := if i = 0 then iv else cs.getD (i - 1) Block.zero

/-- Behind its first block a loop meets the chaining values of a loop that starts from that block. -/
theorem cvAt_cons_succ (iv c : Block) (cs : List Block) (i : Nat) : cvAt iv (c :: cs) (i + 1) = cvAt c cs i := by
  cases i <;> rfl

theorem cvAt_blocks (iv : Block) {buf : List Byte} {i : Nat} (h : i ≤ buf.length / 16) :
    cvAt iv (blocks buf) i = if i = 0 then iv else blockAt buf (i - 1) := by
  cases i with
  | zero => rfl
  | succ i => simp [cvAt, List.getD, getElem?_blocks (Nat.lt_of_succ_le h)]

theorem getElem?_cbcDecrypt (rk : Schedule) (cs : List Block) (iv : Block) (i : Nat) :
    (cbcDecrypt rk cs iv).1[i]? = cs[i]?.map fun c => (decryptBlock rk c).xor (cvAt iv cs i) := by
  induction cs generalizing iv i with
  | nil => rfl
  | cons c cs ih =>
    cases i with
    | zero => rfl
    | succ i =>
      rw [cvAt_cons_succ]
      exact ih c i

theorem cbcDecrypt_snd (rk : Schedule) (cs : List Block) (iv : Block) :
    (cbcDecrypt rk cs iv).2 = cvAt iv cs cs.length := by
  induction cs generalizing iv with
  | nil => rfl
  | cons c cs ih =>
    rw [List.length_cons, cvAt_cons_succ]
    exact ih c

/-- The decryption loop undoes the encryption loop and returns the same chaining value (R149). -/
theorem cbcDecrypt_cbcEncrypt (rk : Schedule) (ps : List Block) (iv : Block) :
    cbcDecrypt rk (cbcEncrypt rk ps iv).1 iv = (ps, (cbcEncrypt rk ps iv).2) := by
  induction ps generalizing iv with
  | nil => rfl
  | cons p ps ih => simp [cbcEncrypt, cbcDecrypt, ih, decryptBlock_encryptBlock]

/-- Each ciphertext block, read off what decryption makes of it. -/
theorem getElem?_cbcEncrypt (rk : Schedule) (ps : List Block) (iv : Block) (i : Nat) :
    (cbcEncrypt rk ps iv).1[i]? =
      ps[i]?.map fun p => encryptBlock rk (p.xor (cvAt iv (cbcEncrypt rk ps iv).1 i)) := by
  have hdec := getElem?_cbcDecrypt rk (cbcEncrypt rk ps iv).1 iv i
  rw [cbcDecrypt_cbcEncrypt] at hdec
  simp [hdec, Function.comp_def, encryptBlock_decryptBlock]

theorem cbcEncrypt_snd (rk : Schedule) (ps : List Block) (iv : Block) :
    (cbcEncrypt rk ps iv).2 = cvAt iv (cbcEncrypt rk ps iv).1 ps.length := by
  have hdec := cbcDecrypt_snd rk (cbcEncrypt rk ps iv).1 iv
  rwa [cbcDecrypt_cbcEncrypt, cbcEncrypt_length] at hdec

/-! ## The chained functions block by block (O22, O26) -/

theorem blocks_encryptChained (rk : Schedule) (buf : List Byte) (iv : Block) :
    blocks (encryptChained rk buf iv).1 = (cbcEncrypt rk (blocks buf) iv).1 :=
  blocks_joinBlocks _

/-- The ciphertext has as many blocks as the buffer. -/
theorem encryptChained_length_div (rk : Schedule) (buf : List Byte) (iv : Block) :
    (encryptChained rk buf iv).1.length / 16 = buf.length / 16 := by
  simp [encryptChained]

/-- Ciphertext block `i` (R137, R138). -/
theorem blockAt_encryptChained (rk : Schedule) (iv : Block) {buf : List Byte} {i : Nat} (h : i < buf.length / 16) :
    blockAt (encryptChained rk buf iv).1 i =
      encryptBlock rk ((blockAt buf i).xor (if i = 0 then iv else blockAt (encryptChained rk buf iv).1 (i - 1))) := by
  have hcv := cvAt_blocks iv (h.le.trans_eq (encryptChained_length_div rk buf iv).symm)
  rw [← hcv, blocks_encryptChained]
  exact blockAt_joinBlocks (by rw [getElem?_cbcEncrypt, getElem?_blocks h, Option.map_some])

/-- Plaintext block `i` (R139). -/
theorem blockAt_decryptChained (rk : Schedule) (iv : Block) {buf : List Byte} {i : Nat} (h : i < buf.length / 16) :
    blockAt (decryptChained rk buf iv).1 i =
      (decryptBlock rk (blockAt buf i)).xor (if i = 0 then iv else blockAt buf (i - 1)) := by
  rw [← cvAt_blocks iv h.le]
  exact blockAt_joinBlocks (by rw [getElem?_cbcDecrypt, getElem?_blocks h, Option.map_some])

theorem decryptChained_snd (rk : Schedule) (iv : Block) {buf : List Byte} (h : 0 < buf.length / 16) :
    (decryptChained rk buf iv).2 = blockAt buf (buf.length / 16 - 1) := by
  rw [decryptChained, cbcDecrypt_snd, blocks_length, cvAt_blocks iv le_rfl, if_neg h.ne']

theorem encryptChained_snd (rk : Schedule) (iv : Block) {buf : List Byte} (h : 0 < buf.length / 16) :
    (encryptChained rk buf iv).2 = blockAt (encryptChained rk buf iv).1 (buf.length / 16 - 1) := by
  have hlen := encryptChained_length_div rk buf iv
  have hcv := cvAt_blocks iv hlen.ge
  rw [if_neg h.ne', blocks_encryptChained, ← blocks_length buf, ← cbcEncrypt_snd, blocks_length] at hcv
  exact hcv

/-- Settles O22: every block by the formula of its loop, and the chaining value that follows the last block. -/
theorem chainedBlockFormula : Obligations.ChainedBlockFormula := fun rk _ iv hne hmod =>
  have hpos := length_div_pos hne hmod
  ⟨encryptChained_length rk iv hmod, fun _ => blockAt_encryptChained rk iv, encryptChained_snd rk iv hpos,
    decryptChained_length rk iv hmod, fun _ => blockAt_decryptChained rk iv, decryptChained_snd rk iv hpos⟩

/-- Settles O26: block 0 meets a zero block, block 1 the first ciphertext block, and `encryptBlock` is injective. -/
theorem chainedAndStatelessAgreement : Obligations.ChainedAndStatelessAgreement := by
  refine fun rk buf _ => ⟨fun hlen => ?_, fun hlen => ?_⟩
  · have h0 : 0 < buf.length / 16 := by omega
    rw [blockAt_encryptChained rk _ h0, blockAt_encryptEcb rk h0, if_pos rfl, Block.xor_zero]
  · have h1 : 1 < buf.length / 16 := by omega
    rw [blockAt_encryptChained rk _ h1, blockAt_encryptEcb rk h1, if_neg one_ne_zero,
      (encryptBlock_injective rk).eq_iff, Block.xor_eq_left_iff]

end Sys2Proof
end

section
/-! PROOFS of the family 44_chaining.md, a changed IV, a changed ciphertext block and a buffer in two fragments. -/

namespace Sys2Proof

/-! ## Another IV (R149) -/

/-- Chained decryption from the same IV gives the message and the chaining value back. -/
theorem decryptChained_encryptChained (rk : Schedule) (iv : Block) {m : List Byte} (h : m.length % 16 = 0) :
    decryptChained rk (encryptChained rk m iv).1 iv = (m, (encryptChained rk m iv).2) := by
  rw [decryptChained, blocks_encryptChained, cbcDecrypt_cbcEncrypt, joinBlocks_blocks h]
  rfl

/-- What chained decryption from any IV makes of block `i` differs from its plaintext by the chaining values met. -/
theorem blockAt_decryptChained_of_other_iv (rk : Schedule) (iv iv' : Block) {c : List Byte} {i : Nat}
    (h : i < c.length / 16) :
    blockAt (decryptChained rk c iv').1 i =
      if i = 0 then ((blockAt (decryptChained rk c iv).1 0).xor iv).xor iv'
      else blockAt (decryptChained rk c iv).1 i := by
  cases i with
  | zero => simp [blockAt_decryptChained rk _ h]
  | succ i => simp [blockAt_decryptChained rk _ h]

/-- Decryption from another IV is right but for block 0, which differs by `iv ^ iv'` (R149). -/
theorem blockAt_decryptChained_encryptChained (rk : Schedule) (iv iv' : Block) {m : List Byte} {i : Nat}
    (hmod : m.length % 16 = 0) (h : i < m.length / 16) :
    blockAt (decryptChained rk (encryptChained rk m iv).1 iv').1 i =
      if i = 0 then ((blockAt m 0).xor iv).xor iv' else blockAt m i := by
  rw [blockAt_decryptChained_of_other_iv rk iv iv' (h.trans_eq (encryptChained_length_div rk m iv).symm),
    decryptChained_encryptChained rk iv hmod]

/-! ## A changed ciphertext block (O25) -/

theorem cvAt_set_succ (iv x : Block) {cs : List Block} {i : Nat} (h : i < cs.length) : cvAt iv (cs.set i x) (i + 1) = x := by
  simp [cvAt, List.getD, h]

/-- Only the block behind the changed one meets another chaining value. -/
theorem cvAt_set_of_ne (iv x : Block) (cs : List Block) {i j : Nat} (h : j ≠ i + 1) :
    cvAt iv (cs.set i x) j = cvAt iv cs j := by
  cases j with
  | zero => rfl
  | succ j => simp [cvAt, List.getD, List.getElem?_set_ne (show i ≠ j by omega)]

/-- Settles O25: the formula of decryption, where the changed block stands itself and where it is the chaining value. -/
theorem bitFlipPropagation : Obligations.BitFlipPropagation := by
  intro rk cs iv d c i hc hd
  obtain ⟨hi, -⟩ := List.getElem?_eq_some_iff.mp hc
  have hself : (cs.set i (c.xor d))[i]? = some (c.xor d) := by simp [hi]
  have hother {j : Nat} (hj : j ≠ i) : (cs.set i (c.xor d))[j]? = cs[j]? := List.getElem?_set_ne hj.symm
  simp only [blocks_joinBlocks, decryptChained, getElem?_cbcDecrypt]
  refine ⟨?own, ?garbled, ?next, fun j hj hj' => ?rest, ?chainingValue⟩
  case own =>
    rw [hself, cvAt_set_of_ne _ _ _ (by omega)]
    rfl
  case garbled =>
    rw [hself, hc, cvAt_set_of_ne _ _ _ (by omega)]
    intro heq
    have hdec := Block.xor_left_injective _ (Option.some.inj heq)
    exact hd (Block.xor_eq_left_iff.mp (decryptBlock_injective rk hdec))
  case next =>
    have hcv : cvAt iv cs (i + 1) = c := by simp [cvAt, List.getD, hc]
    rw [hother (by omega), cvAt_set_succ _ _ hi, hcv, Option.map_map]
    simp only [Function.comp_def, Block.xor_assoc]
  case rest => rw [hother hj, cvAt_set_of_ne _ _ _ hj']
  case chainingValue =>
    rw [cbcDecrypt_snd, cbcDecrypt_snd, List.length_set]
    split
    case isTrue hlast => rw [← hlast, cvAt_set_succ _ _ hi]
    case isFalse hlast => exact cvAt_set_of_ne _ _ _ (Ne.symm hlast)

/-! ## A buffer in two fragments (R148) -/

/-- A loop over two lists of blocks: the second goes on from the chaining value the first leaves. -/
theorem chain_append (f : Block → Block → Block × Block) (as bs : List Block) (cv : Block) :
    chain f (as ++ bs) cv =
      ((chain f as cv).1 ++ (chain f bs (chain f as cv).2).1, (chain f bs (chain f as cv).2).2) := by
  induction as generalizing cv with
  | nil => rfl
  | cons a as ih => rw [List.cons_append, chain_cons, ih]; rfl

theorem encryptChained_append (rk : Schedule) (iv : Block) {a b : List Byte} (ha : a.length % 16 = 0)
    (hb : b.length % 16 = 0) :
    encryptChained rk (a ++ b) iv =
      ((encryptChained rk a iv).1 ++ (encryptChained rk b (encryptChained rk a iv).2).1,
        (encryptChained rk b (encryptChained rk a iv).2).2) := by
  simp only [encryptChained, blocks_append ha hb, ← chain_cbcEncryptStep, chain_append, joinBlocks_append]

theorem decryptChained_append (rk : Schedule) (iv : Block) {a b : List Byte} (ha : a.length % 16 = 0)
    (hb : b.length % 16 = 0) :
    decryptChained rk (a ++ b) iv =
      ((decryptChained rk a iv).1 ++ (decryptChained rk b (decryptChained rk a iv).2).1,
        (decryptChained rk b (decryptChained rk a iv).2).2) := by
  simp only [decryptChained, blocks_append ha hb, ← chain_cbcDecryptStep, chain_append, joinBlocks_append]

end Sys2Proof
end

section
/-! PROOFS of the family 44_chaining.md, the multi-block commands: their results, sequences of them, their length error, and
the session. -/

namespace Sys2Proof.Machine

/-! ## One command (O30, O31, O39) -/

/-- What a successful multi-block transform leaves: `ST`, `RND` and `BLK` are anything (R141 to R145). -/
theorem finish_releaseBuffer (s : State) (cv : Block) (cst : Session) {rdata : List Byte} {len : Nat}
    (h : rdata.length = len) :
    State.finish { s.releaseBuffer with cv := cv, cst := cst } rdata =
      { s with
        cv := cv, cst := cst, err := 0x00, st := Config.freeSt s.draws, rnd := Config.freeRnd s.draws
        blk := Config.freeBlk s.draws, draws := s.draws + 1
        responses := s.responses ++ [0x00 :: (be32 len ++ rdata)] } := by
  subst h
  rfl

/-- Settles O30: both checks pass, and the answer is as long as the payload. -/
theorem statelessBufferTransforms : Obligations.StatelessBufferTransforms := by
  intro s p hk hne hmod hmax
  have hlen : bufferLenOk p.length = true := (bufferLenOk_iff _).mpr ⟨hne, hmod, hmax⟩
  exact ⟨⟨_, _, _, _, (execEnce_of_ok hk hlen).trans
      (congrArg _ (finish_releaseBuffer s s.cv s.cst (encryptEcb_length s.rk hmod)))⟩,
    ⟨_, _, _, _, (execDece_of_ok hk hlen).trans
      (congrArg _ (finish_releaseBuffer s s.cv s.cst (decryptEcb_length s.rk hmod)))⟩⟩

/-- Settles O31: both checks pass, and the answer is as long as the payload. -/
theorem chainedBufferTransforms : Obligations.ChainedBufferTransforms := by
  intro s p hk hne hmod hmax
  have hlen : bufferLenOk p.length = true := (bufferLenOk_iff _).mpr ⟨hne, hmod, hmax⟩
  exact ⟨⟨_, _, _, _, (execEncc_of_ok hk hlen).trans
      (congrArg _ (finish_releaseBuffer s _ .chained (encryptChained_length s.rk s.cv hmod)))⟩,
    ⟨_, _, _, _, (execDecc_of_ok hk hlen).trans
      (congrArg _ (finish_releaseBuffer s _ .chained (decryptChained_length s.rk s.cv hmod)))⟩⟩

/-- Which lengths a multi-block command refuses (R143). -/
theorem bufferLenOk_eq_false_iff (len : Nat) :
    bufferLenOk len = false ↔ len = 0 ∨ len % 16 ≠ 0 ∨ Config.maxLen < len := by
  rw [← Bool.not_eq_true, bufferLenOk_iff]
  omega

/-- Settles O39: the four commands have their key and share one length rule. -/
theorem invalidLengthError : Obligations.InvalidLengthError := by
  refine ⟨fun s p i hk hbad hi => ?_, fun n hn => ?_, fun n hn => ?_⟩
  · have hlen := (bufferLenOk_eq_false_iff p.length).mpr hbad
    simp only [List.mem_cons, List.not_mem_nil, or_false] at hi
    obtain rfl | rfl | rfl | rfl := hi <;> exact exec_of_wrong_len_of_key (fun _ => hk) hlen
  · simp only [List.mem_cons, List.not_mem_nil, or_false] at hn
    rw [bufferLenOk_eq_false_iff]
    omega
  · have hmax : 48 ≤ Config.maxLen := maxLen_bounds.1
    simp only [List.mem_cons, List.not_mem_nil, or_false] at hn
    rw [bufferLenOk_iff]
    omega

/-! ## Two commands in sequence (O23, O24) -/

theorem runSequence_single_of_ok {i : Instr} {s : State} (hi : commandStatus i.opcode i.len s.kv = .ok) :
    runSequence [i] s = (.success [successData i s], succeed i s) := by
  rw [runSequence_cons_of_ok hi]
  rfl

theorem runSequence_pair_of_ok {i j : Instr} {s : State} (hi : commandStatus i.opcode i.len s.kv = .ok)
    (hj : commandStatus j.opcode j.len (succeed i s).kv = .ok) :
    runSequence [i, j] s = (.success [successData i s, successData j (succeed i s)], succeed j (succeed i s)) := by
  rw [runSequence_cons_of_ok hi, runSequence_single_of_ok hj]
  rfl

/-- LDIV, then ENCC: the buffer is encrypted from the loaded IV, and the key stays (R141, R156). -/
theorem runSequence_ldiv_encc {s : State} {iv m : List Byte} (hk : s.kv = true) (hiv : iv.length = 16)
    (hm : bufferLenOk m.length = true) :
    ∃ t, t.kv = true ∧ t.rk = s.rk ∧ runSequence [.ldiv iv, .encc m] s =
      (.success [[], (encryptChained s.rk m (Block.ofBytes iv)).1], t) :=
  ⟨succeed (.encc m) (succeed (.ldiv iv) s), hk, rfl, runSequence_pair_of_ok
    (commandStatus_ok nofun (beq_iff_eq.mpr hiv)) (commandStatus_ok (fun _ => hk) hm)⟩

/-- LDIV, then DECC: the buffer is decrypted from the loaded IV (R142, R156). -/
theorem runSequence_ldiv_decc {s : State} {iv c : List Byte} (hk : s.kv = true) (hiv : iv.length = 16)
    (hc : bufferLenOk c.length = true) :
    ∃ u, runSequence [.ldiv iv, .decc c] s = (.success [[], (decryptChained s.rk c (Block.ofBytes iv)).1], u) :=
  ⟨_, runSequence_pair_of_ok (i := .ldiv iv) (j := .decc c) (commandStatus_ok nofun (beq_iff_eq.mpr hiv))
    (commandStatus_ok (fun _ => hk) hc)⟩

/-- Settles O23: the loops undo each other, and each LDIV makes the second command start from the IV. -/
theorem chainedRoundTrip : Obligations.ChainedRoundTrip := by
  refine ⟨fun rk m iv iv' hne hmod => ⟨decryptChained_encryptChained rk iv hmod, ?_, fun i hpos hi => ?_⟩,
    fun s iv m hk hiv hm => ?_⟩
  · exact blockAt_decryptChained_encryptChained rk iv iv' hmod (length_div_pos hne hmod)
  · rw [blockAt_decryptChained_encryptChained rk iv iv' hmod hi, if_neg hpos.ne']
  · have hmod := bufferLenOk_mod hm
    obtain ⟨t, hkt, hrk, henc⟩ := runSequence_ldiv_encc hk hiv hm
    have hc : bufferLenOk (encryptChained s.rk m (Block.ofBytes iv)).1.length = true := by
      rwa [encryptChained_length _ _ hmod]
    obtain ⟨u, hdec⟩ := runSequence_ldiv_decc hkt hiv hc
    rw [hrk, decryptChained_encryptChained _ _ hmod] at hdec
    exact ⟨_, t, u, henc, hdec⟩

/-- Two commands that together answer what a third answers, and leave its `CV`. -/
theorem runSequence_fragments {i j whole : Instr} {s : State} (hi : commandStatus i.opcode i.len s.kv = .ok)
    (hj : commandStatus j.opcode j.len (succeed i s).kv = .ok)
    (hwhole : commandStatus whole.opcode whole.len s.kv = .ok)
    (hdata : successData whole s = successData i s ++ successData j (succeed i s))
    (hcv : (succeed whole s).cv = (succeed j (succeed i s)).cv) :
    ∃ x y t u, runSequence [i, j] s = (.success [x, y], t) ∧ runSequence [whole] s = (.success [x ++ y], u) ∧
      t.cv = u.cv :=
  ⟨_, _, _, _, runSequence_pair_of_ok hi hj, hdata ▸ runSequence_single_of_ok hwhole, hcv.symm⟩

/-- Settles O24: the second command goes on from the `CV` the first leaves. -/
theorem continuationAcrossFragments : Obligations.ContinuationAcrossFragments := by
  refine ⟨fun rk a b iv ha hb => ⟨encryptChained_append rk iv ha hb, decryptChained_append rk iv ha hb⟩,
    fun s a b hk ha hb hab => ?_⟩
  have hok {op : Opcode} {len : Nat} (hlen : op.lenOk len = true) : commandStatus op len s.kv = .ok :=
    commandStatus_ok (fun _ => hk) hlen
  have henc := encryptChained_append s.rk s.cv (bufferLenOk_mod ha) (bufferLenOk_mod hb)
  have hdec := decryptChained_append s.rk s.cv (bufferLenOk_mod ha) (bufferLenOk_mod hb)
  exact ⟨runSequence_fragments (i := .encc a) (j := .encc b) (whole := .encc (a ++ b)) (hok ha) (hok hb) (hok hab)
      (congrArg Prod.fst henc :) (congrArg Prod.snd henc :),
    runSequence_fragments (i := .decc a) (j := .decc b) (whole := .decc (a ++ b)) (hok ha) (hok hb) (hok hab)
      (congrArg Prod.fst hdec :) (congrArg Prod.snd hdec :)⟩

/-! ## The session (O48) -/

/-- A command passes its checks exactly when it has the key it needs and a legal `LEN` (R169). -/
theorem commandStatus_eq_ok_iff {op : Opcode} {len : Nat} {kv : Bool} :
    commandStatus op len kv = .ok ↔ (op.needsKey = true → kv = true) ∧ op.lenOk len = true := by
  refine ⟨fun h => ⟨fun hop => ?_, lenOk_of_commandStatus_ok h⟩, fun ⟨hkey, hlen⟩ => commandStatus_ok hkey hlen⟩
  cases kv with
  | true => rfl
  | false => simp [commandStatus, hop] at h

/-- A command succeeds or is one error entry. -/
theorem exec_cases {i : Instr} {s t : State} (h : exec i s = .next t) :
    (commandStatus i.opcode i.len s.kv = .ok ∧ t = succeed i s) ∨
    (commandStatus i.opcode i.len s.kv ≠ .ok ∧ t = s.raise (commandStatus i.opcode i.len s.kv)) := by
  by_cases hok : commandStatus i.opcode i.len s.kv = .ok
  · rw [exec_of_ok hok] at h
    cases h
    exact .inl ⟨hok, rfl⟩
  · rw [exec_of_error hok] at h
    cases h
    exact .inr ⟨hok, rfl⟩

theorem step_of_reset {s : State} {rest : List HostEvent} (h : s.hostEvents = .reset :: rest) :
    step s = .next ({ s with hostEvents := rest } : State).applyReset := by
  rw [step, takeEvent, h]
  rfl

/-- A legal buffer has a block. -/
theorem bufferLenOk_div_pos {len : Nat} (h : bufferLenOk len = true) : 0 < len / 16 := by
  obtain ⟨hne, hmod, -⟩ := (bufferLenOk_iff len).mp h
  omega

/-- Settles O48: reset and the success of four commands write `CV` and `CST`; no other success does, and no error entry. -/
theorem sessionStateMachine : Obligations.SessionStateMachine := by
  refine ⟨fun s t rest hev h => ?_, fun i s t h => ?_⟩
  · rw [step_of_reset hev] at h
    cases h
    exact ⟨rfl, rfl⟩
  obtain ⟨hok, rfl⟩ | ⟨hfail, rfl⟩ := exec_cases h
  · obtain ⟨hkey, hlen⟩ := commandStatus_eq_ok_iff.mp hok
    cases i with
    | ldiv p =>
      have hp : p.length = 16 := beq_iff_eq.mp hlen
      simp only [if_pos hp]
      exact ⟨rfl, rfl⟩
    | ldivd p =>
      have hp : p = [] := List.length_eq_zero_iff.mp (beq_iff_eq.mp hlen)
      simp only [if_pos hp]
      exact ⟨rfl, rfl⟩
    | encc p =>
      have hp : s.kv = true ∧ bufferLenOk p.length = true := ⟨hkey rfl, hlen⟩
      simp only [if_pos hp]
      exact ⟨rfl, encryptChained_snd s.rk s.cv (bufferLenOk_div_pos hlen)⟩
    | decc p =>
      have hp : s.kv = true ∧ bufferLenOk p.length = true := ⟨hkey rfl, hlen⟩
      simp only [if_pos hp]
      exact ⟨rfl, decryptChained_snd s.rk s.cv (bufferLenOk_div_pos hlen)⟩
    | keyexp | encb | decb | ence | dece | rdiv | rdst => exact ⟨rfl, rfl⟩
  · rw [Ne, commandStatus_eq_ok_iff] at hfail
    cases i with
    | ldiv p =>
      have hp : ¬ p.length = 16 := fun hp => hfail ⟨nofun, beq_iff_eq.mpr hp⟩
      simp only [if_neg hp]
      exact ⟨rfl, rfl⟩
    | ldivd p =>
      have hp : ¬ p = [] := fun hp => hfail ⟨nofun, beq_iff_eq.mpr (List.length_eq_zero_iff.mpr hp)⟩
      simp only [if_neg hp]
      exact ⟨rfl, rfl⟩
    | encc p | decc p =>
      have hp : ¬ (s.kv = true ∧ bufferLenOk p.length = true) := fun ⟨hk, hlen⟩ => hfail ⟨fun _ => hk, hlen⟩
      simp only [if_neg hp]
      exact ⟨rfl, rfl⟩
    | keyexp | encb | decb | ence | dece | rdiv | rdst => exact ⟨rfl, rfl⟩

end Sys2Proof.Machine
end

section
/-! PROOFS of the family 45_system.md: the IV commands and the two reads. Each is asked for nothing but its `LEN`. -/

namespace Sys2Proof.Machine

/-- A command that needs no key and has a legal `LEN` succeeds (R169). -/
theorem exec_of_len_ok {i : Instr} (s : State) (hkey : i.opcode.needsKey = false)
    (hlen : i.opcode.lenOk i.len = true) : exec i s = .next (succeed i s) :=
  exec_of_ok (commandStatus_ok (by simp [hkey]) hlen)

/-- What a success without data leaves (R53): `ERR` is OK and the response is its five header bytes. -/
theorem State.finish_nil (s : State) :
    s.finish [] = { s with err := 0x00, responses := s.responses ++ [[0x00, 0, 0, 0, 0]] } := rfl

/-- What a success with one block of data leaves (R53, R54). -/
theorem State.finish_block (s : State) (b : Block) :
    s.finish b.bytes =
      { s with err := 0x00, responses := s.responses ++ [[0x00, 0, 0, 0, 0x10] ++ b.bytes] } := by
  rw [← encodeResponse_block]
  rfl

/-- STATUS byte 0 as a number: `CST` weighs 2 and `KV` weighs 1 (R18). -/
theorem statusByte0_eq_add (kv : Bool) (cst : Session) :
    statusByte0 kv cst = (if cst = .chained then 2 else 0) + (if kv = true then 1 else 0) := by
  cases kv <;> cases cst <;> rfl

/-- What RDST answers (R161): two bytes of data, and no register is written. -/
theorem State.respond_statusBytes (s : State) :
    s.respond .ok s.statusBytes =
      { s with responses := s.responses ++ [[0x00, 0, 0, 0, 0x02, statusByte0 s.kv s.cst, s.err]] } := by
  rw [← encodeResponse_pair]
  rfl

/-- Settles O32: 16 bytes pass the check of LDIV and none pass that of LDIVD; neither answers data. -/
theorem ivLoads : Obligations.IvLoads := fun s =>
  ⟨fun p hp => (exec_of_len_ok (i := .ldiv p) s rfl (beq_iff_eq.mpr hp)).trans (congrArg _ (State.finish_nil _)),
    (exec_of_len_ok (i := .ldivd []) s rfl rfl).trans (congrArg _ (State.finish_nil _))⟩

/-- Settles O33: RDIV answers the block `CV`, RDST the two STATUS bytes. -/
theorem registerReads : Obligations.RegisterReads := by
  refine fun s => ⟨?_, ?_⟩
  · exact (exec_of_len_ok (i := .rdiv []) s rfl rfl).trans (congrArg _ (State.finish_block s s.cv))
  · rw [← statusByte0_eq_add]
    exact (exec_of_len_ok (i := .rdst []) s rfl rfl).trans (congrArg _ s.respond_statusBytes)

end Sys2Proof.Machine
end

section
/-! PROOFS of the family 60_exceptions.md: the one error entry, and what it leaves for the commands after it; which steps are
refused. -/

namespace Sys2Proof.Machine

/-! ## The error entry (O41, O37) -/

/-- A transform command without a key is the error entry with `NoKey`, whatever its `LEN` (R168, R169). -/
theorem exec_of_no_key {i : Instr} {s : State} (hkey : i.opcode.needsKey = true) (hkv : s.kv = false) :
    exec i s = .next (s.raise .noKey) := by
  have hstatus : commandStatus i.opcode i.len s.kv = .noKey := by simp [commandStatus, hkey, hkv]
  rw [exec_of_error (hstatus ▸ nofun), hstatus]

/-- Settles O37: the six commands need a key, and that check comes first. -/
theorem noKeyError : Obligations.NoKeyError := by
  intro s p i hkv hi
  have hkey : i.opcode.needsKey = true := by
    simp only [List.mem_cons, List.not_mem_nil, or_false] at hi
    obtain rfl | rfl | rfl | rfl | rfl | rfl := hi <;> rfl
  exact exec_of_no_key hkey hkv

/-- RDST needs no key, and its one check asks for an empty payload (R58). -/
theorem commandStatus_eq_ok_iff_of_rdst {op : Opcode} {len : Nat} {kv : Bool} (hop : op = .rdst) :
    commandStatus op len kv = .ok ↔ len = 0 := by
  subst hop
  simp [commandStatus_eq_ok_iff, Opcode.needsKey, Opcode.lenOk]

/-- `ERR` after a successful command: RDST alone keeps the earlier one (R17). -/
theorem succeed_err_eq_ite (i : Instr) (s : State) :
    (succeed i s).err = if i.opcode = .rdst then s.err else 0x00 := by
  cases i with
  | keyexp | encb | decb | ence | dece | encc | decc | ldiv | ldivd | rdiv | rdst => rfl

/-- Settles O41: a failure is one error entry, which writes `ERR`, and a success but RDST's writes OK there. -/
theorem errorEntryAndErr : Obligations.ErrorEntryAndErr := by
  refine fun i s => ⟨exec_of_error, fun t h => ?_⟩
  obtain ⟨hok, rfl⟩ | ⟨hfail, rfl⟩ := exec_cases h
  · have hrdst : (i.opcode = .rdst ∧ i.len = 0) ↔ i.opcode = .rdst :=
      and_iff_left_of_imp fun hi => (commandStatus_eq_ok_iff_of_rdst hi).mp hok
    rw [succeed_err_eq_ite, hok]
    simp only [hrdst]
    rfl
  · have hrdst : ¬ (i.opcode = .rdst ∧ i.len = 0) :=
      fun ⟨hi, hlen⟩ => hfail ((commandStatus_eq_ok_iff_of_rdst hi).mpr hlen)
    rw [if_neg hrdst, State.raise_err]

/-! ## After an error (O42)

An error entry writes `ERR` alone of the registers, and RDST alone reads it. -/

/-- A successful command but RDST answers the same data after an error entry (R172). -/
theorem successData_raise {j : Instr} (s : State) (e : Status) (hj : j.opcode ≠ .rdst) :
    successData j (s.raise e) = successData j s := by
  cases j with
  | rdst p => exact absurd rfl hj
  | keyexp | encb | decb | ence | dece | encc | decc | ldiv | ldivd | rdiv => rfl

/-- A successful command but RDST leaves the same registers after an error entry (R172). -/
theorem sameRegisters_succeed_raise {j : Instr} (s : State) (e : Status) (hj : j.opcode ≠ .rdst) :
    SameRegisters (succeed j s) (succeed j (s.raise e)) := by
  cases j with
  | rdst p => exact absurd rfl hj
  | keyexp | encb | decb | ence | dece | encc | decc | ldiv | ldivd | rdiv => exact ⟨rfl, rfl, rfl, rfl, rfl⟩

/-- An error entry leaves the same registers after an earlier one (R172). -/
theorem sameRegisters_raise_raise (s : State) (e e' : Status) : SameRegisters (s.raise e') ((s.raise e).raise e') :=
  ⟨rfl, rfl, rfl, rfl, rfl⟩

/-- Settles O42: the error entry keeps `KV`, so the second command passes or fails its checks as before it. -/
theorem failedCommandLeavesNoTrace : Obligations.FailedCommandLeavesNoTrace := by
  intro i j s t hfail h hrdst
  rw [exec_of_error hfail] at h
  cases h
  by_cases hok : commandStatus j.opcode j.len s.kv = .ok
  · have hj : j.opcode ≠ .rdst := fun hj => hrdst ⟨hj, (commandStatus_eq_ok_iff_of_rdst hj).mp hok⟩
    refine ⟨_, _, _, exec_of_ok hok, exec_of_ok hok, sameRegisters_succeed_raise s _ hj, succeed_responses j s, ?_⟩
    rw [succeed_responses, successData_raise s _ hj]
  · exact ⟨_, _, _, exec_of_error hok, exec_of_error hok, sameRegisters_raise_raise s _ _, rfl, rfl⟩

/-! ## Refused steps (O45) -/

theorem wholeFrame_eq_false_iff {bytes : List Byte} : wholeFrame bytes = false ↔ decode bytes = .malformed := by
  simp [wholeFrame]

/-- A frame is refused exactly when it is not whole (R191). -/
theorem runFrame_refused_iff (bytes : List Byte) (s : State) :
    (∃ r, runFrame bytes s = .refused r) ↔ wholeFrame bytes = false := by
  rw [wholeFrame_eq_false_iff]
  obtain ⟨i, hdec, hrun⟩ | ⟨opc, hdec, hrun⟩ | ⟨hdec, hrun⟩ := runFrame_cases bytes s
  · simp [hdec, hrun, exec_eq]
  · simp [hdec, hrun]
  · simp [hdec, hrun]

/-- A step is refused exactly when the first event is a frame that is not whole (R191). -/
theorem step_refused_iff (s : State) :
    (∃ r, step s = .refused r) ↔ ∃ bytes rest, s.hostEvents = .frame bytes :: rest ∧ wholeFrame bytes = false := by
  obtain ⟨hev, hrun⟩ | ⟨bytes, rest, hev, hrun⟩ | ⟨e, rest, hev, he, hrun⟩ := takeEvent_cases s
  · simp [step, hrun, hev]
  · simp [step, hrun, hev, runFrame_refused_iff]
  · obtain rfl | ⟨bytes, rfl⟩ := he <;> simp [step, hrun, hev]

/-- Nothing faults (R172, R173), so a step that is not refused is safe. -/
theorem safeStep_of_not_refused {s : State} (h : ¬ ∃ r, step s = .refused r) : SafeStep s := by
  cases hstep : step s with
  | next t => exact ⟨t, hstep⟩
  | fault f => cases f
  | refused r => exact absurd ⟨r, hstep⟩ h

/-- A step takes the oldest event off the list. -/
theorem step_hostEvents {s t : State} (h : step s = .next t) : t.hostEvents = s.hostEvents.tail := by
  cases hev : s.hostEvents with
  | nil =>
    rw [step_of_idle hev] at h
    cases h
    exact hev
  | cons e rest => exact (oneResponsePerFrame s t e rest hev h).1

/-- Settles O45: a frame that is not whole is the one refusal, and a host that sends whole frames sends none. -/
theorem wholeFramesNeverStop : Obligations.WholeFramesNeverStop := by
  refine ⟨fun i s => ⟨_, exec_eq i s⟩, step_refused_iff, fun _ => nofun, fun s hobeys => ?_⟩
  rw [State.hostObeys, List.all_eq_true] at hobeys
  refine ⟨safeStep_of_not_refused ?_, fun t h => ?_⟩
  · rw [step_refused_iff]
    rintro ⟨bytes, rest, hev, hbad⟩
    have hwhole : wholeFrame bytes = true := hobeys (.frame bytes) (hev ▸ List.mem_cons_self)
    exact Bool.false_ne_true (hbad.symm.trans hwhole)
  · rw [State.hostObeys, List.all_eq_true, step_hostEvents h]
    exact fun e he => hobeys e (List.mem_of_mem_tail he)

end Sys2Proof.Machine
end

section
/-! PROOFS of the family 70_reset_and_hazards.md: the number of operations of each kind, and reset. -/

namespace Sys2Proof

/-! ## The operation counts (O54) -/

/-- The operations on `n` blocks hold an operation, one that is not the load of a block, `n` times as often as those on one. -/
theorem count_eachBlock {op : MicroOp} {body : List MicroOp} {c : Nat} (hbody : body.count op = c) (n : Nat) (o : KeyOrder)
    (hload : ∀ i, .loadBlock i o ≠ op := by nofun) : (eachBlock n o body).count op = c * n := by
  induction n with
  | zero => rfl
  | succ n ih => rw [eachBlock_succ, List.count_append, ih, List.count_cons_of_ne (hload n), hbody, Nat.mul_succ]

/-- Settles O54: a command of `n` blocks holds `n` times what its list for one block holds. -/
theorem operationCounts : Obligations.OperationCounts := by
  refine ⟨fun n op hop => ?_, fun n op hop => ?_, fun n => ?_, fun _ => rfl⟩
  · obtain rfl | rfl := by simpa using hop
    all_goals refine ⟨?_, ?_, ?_, ?_⟩
    all_goals exact count_eachBlock (by decide) n .rising
  · obtain rfl | rfl := by simpa using hop
    all_goals refine ⟨?_, ?_, ?_, ?_⟩
    all_goals exact count_eachBlock (by decide) n .falling
  · refine ⟨?_, ?_, ?_, ?_⟩
    all_goals exact (count_eachBlock (c := 1) (by decide) n _).trans n.one_mul

end Sys2Proof

namespace Sys2Proof.Machine

/-! ## Reset (O1) -/

/-- A frame cut by reset is discarded whatever its bytes (R186). -/
theorem step_of_frameCutByReset {s : State} {bytes : List Byte} {rest : List HostEvent}
    (h : s.hostEvents = .frameCutByReset bytes :: rest) :
    step s = .next ({ s with hostEvents := rest } : State).applyReset := by
  rw [step, takeEvent, h]
  rfl

/-- Settles O1: both reset events end in `applyReset`, which draws `RK`, `ST`, `RND` and `BLK` as free values. -/
theorem resetEffect : Obligations.ResetEffect := by
  refine ⟨⟨rfl, rfl, rfl, rfl⟩, fun s rest hev => ?_⟩
  have hstep : step s = .next ({ s with hostEvents := rest } : State).applyReset := by
    obtain hreset | ⟨bytes, hcut⟩ := hev
    · exact step_of_reset hreset
    · exact step_of_frameCutByReset hcut
  exact ⟨_, _, _, _, _, hstep⟩

end Sys2Proof.Machine
end
